-- ==== Sys2Proof/Word.lean ====
section
/-! DEFINITION. The word types of the block: a byte is 8 bits and a register 64 bits (`00_scope.md` R8, R9;
`10_state.md` R28). A byte string is a list of bytes. -/

namespace Sys2Proof

/-- A byte, 8 bits (R8). -/
abbrev Byte := BitVec 8

/-- A byte string: a finite sequence of bytes, indexed from 0 (R9). -/
abbrev Bytes := List Byte

/-- A register of the register space and a counter: 64 bits, arithmetic modulo 2^64 (R26, R28). -/
abbrev Reg64 := BitVec 64

end Sys2Proof
end

