-- ==== Sys2Proof/Config.lean ====
section
/-! DEFINITION. What is fixed for one block while it runs: the fixed sizes of `00_scope.md` R7 and its OPEN
parameters, as plain data (log entry 8). -/

namespace Sys2Proof

/-- `MAX_DGRAM_BYTES` (R7): a datagram has 0 to 65536 bytes. -/
def maxDgramBytes : Nat := 65536

/-- `FIXED_HEADER_BYTES` (R7): the fixed RTP header. -/
def fixedHeaderBytes : Nat := 12

/-- The longest payload, 65536 - 12 bytes (`41_nal_classifier.md` R130). -/
def maxPayloadBytes : Nat := 65524

/-- `EXT_OVERRUN_STATUS` (R7, `90_conflicts.md` C1): which status an extension overrun gives. -/
inductive ExtOverrun where
  | headerTooShort
  | invalidExtensionLength
  deriving DecidableEq, Repr

/-- `SCAN_FORBIDDEN_POLICY` (R7, `90_conflicts.md` C5): read by the host-side scanner only. -/
inductive ScanPolicy where
  | fail
  | skipAndCount
  deriving DecidableEq, Repr

/-- The OPEN parameters a model takes as arguments (R7, R67). -/
structure Config where
  /-- `MAX_FRAG_BYTES`: `none` is `UNBOUNDED`. -/
  maxFragBytes : Option Nat
  /-- `REPLAY_CAP`: 0 to 2^32 - 1. -/
  replayCap : Nat
  /-- `EXT_OVERRUN_STATUS`. -/
  extOverrun : ExtOverrun
  /-- `SCAN_FORBIDDEN_POLICY`. -/
  scanForbidden : ScanPolicy
  /-- `BLOCK_BASE` (R67): no rule reads it. -/
  blockBase : Nat
  deriving DecidableEq, Repr

/-- The defaults of R7. For `BLOCK_BASE` R67 gives none: 0 is a DESIGN CHOICE (log entry 8). -/
def Config.default : Config where
  maxFragBytes := none
  replayCap := 4294967295
  extOverrun := .headerTooShort
  scanForbidden := .fail
  blockBase := 0

/-- The ranges R7 gives the parameters: `MAX_FRAG_BYTES` is positive, `REPLAY_CAP` fits 32 bits. -/
def Config.wf (c : Config) : Bool :=
  (c.maxFragBytes != some 0) && decide (c.replayCap < 4294967296)

end Sys2Proof
end

