-- ==== Sys2Proof/Syntax.lean ====
section
/-! DEFINITION. The instructions of the block: one constructor per row of `spec/opcode_table.json`, and the coded
forms they are read from. The rows below the host transactions are the stages of one `DGRAM` step (log entry 3). -/

namespace Sys2Proof

/-- One constructor per row of the opcode table. Operands are the bits and bytes of the row's own format that the
row does not fix: `f` and `nri` are the NAL header's `F` and `NRI`, `t` the free low bits of its type, `body` the
payload after the NAL header byte (`30_encoding.md` R85 to R89). -/
inductive Instr where
  -- version rows, format rtp_byte0: byte `D[0]` after `HeaderDecode` succeeded (R80, R115)
  | rtpAcceptV2 (p x : Bool) (cc : BitVec 4)
  | rtpDropV0 (p x : Bool) (cc : BitVec 4)
  | rtpDropV1 (p x : Bool) (cc : BitVec 4)
  | rtpDropV3 (p x : Bool) (cc : BitVec 4)
  -- classifier rows, format nal_byte0 (R86)
  | singleNalT0015 (f : Bool) (nri : BitVec 2) (t : BitVec 4) (body : Bytes)
  | singleNalT1623 (f : Bool) (nri : BitVec 2) (t : BitVec 3) (body : Bytes)
  | stapA (f : Bool) (nri : BitVec 2) (units : Bytes)
  | unsupportedT25 (f : Bool) (nri : BitVec 2) (body : Bytes)
  | unsupportedT2627 (f : Bool) (nri : BitVec 2) (t : BitVec 1) (body : Bytes)
  | fuA (f : Bool) (nri : BitVec 2) (body : Bytes)
  | unsupportedT29 (f : Bool) (nri : BitVec 2) (body : Bytes)
  | unsupportedT3031 (f : Bool) (nri : BitVec 2) (t : BitVec 1) (body : Bytes)
  | emptyPayload
  -- FU-A rows, format fu_word: `r` is the ignored bit 5 of the FU header (R87)
  | fuAMiddle (f : Bool) (nri : BitVec 2) (r : Bool) (ot : BitVec 5) (frag : Bytes)
  | fuAEnd (f : Bool) (nri : BitVec 2) (r : Bool) (ot : BitVec 5) (frag : Bytes)
  | fuAStart (f : Bool) (nri : BitVec 2) (r : Bool) (ot : BitVec 5) (frag : Bytes)
  | fuAStartEnd (f : Bool) (nri : BitVec 2) (r : Bool) (ot : BitVec 5) (frag : Bytes)
  | fuATooShort (f : Bool) (nri : BitVec 2)
  -- sequence rows, formats seq_delta16 and seq_valid (R170)
  | seqDuplicate
  | seqInOrder
  | seqLost (delta : BitVec 16)
  | seqOutOfOrder (delta : BitVec 16)
  | seqFirst
  -- host transactions, format host_cw (R92, R93)
  | dgram (d : Bytes)
  | regRead (off : BitVec 8)
  | regWrite (off : BitVec 8) (v : Reg64)
  | reservedKind3 (low : BitVec 14)
  | ctrlStop (v : Reg64)
  | ctrlSessionReset (v : Reg64)
  | ctrlReplayClear (v : Reg64)
  | scCfgWrite (v : Reg64)
  | replayPushWrite (v : Reg64)
  deriving DecidableEq, Repr

/-- The data that follows a command word (R92): nothing, a 17-bit length with the datagram's bytes, or a 64-bit
value. -/
inductive HostData where
  | none
  | datagram (len : BitVec 17) (bytes : Bytes)
  | value (v : Reg64)
  deriving DecidableEq, Repr

/-- A host transaction: the 16-bit command word and the data that follows it (R92; log entry 1). -/
structure HostTxn where
  cw : BitVec 16
  data : HostData
  deriving DecidableEq, Repr

/-- What reaches the block from outside, in order: a transaction, or the hardware event `RESET`, which is an input
outside the host's transactions (`70_reset_and_hazards.md` R230; log entry 2). -/
inductive HostInput where
  | txn (t : HostTxn)
  | reset
  deriving DecidableEq, Repr

/-- A coded instruction at one of the four decode levels of `30_encoding.md`: what a decoder of the block looks at. -/
inductive Code where
  /-- byte `D[0]` of a datagram (rows rtp_byte0) -/
  | versionByte (b : Byte)
  /-- a payload at the classifier (rows nal_byte0 and the empty payload) -/
  | payload (pl : Bytes)
  /-- a payload at the FU-A level (rows fu_word and FU_A_TOO_SHORT) -/
  | fuPayload (pl : Bytes)
  /-- `none` for `SEQ_VALID = 0`, else the 16-bit delta (rows seq_valid and seq_delta16) -/
  | sequence (delta : Option (BitVec 16))
  /-- a host transaction (rows host_cw) -/
  | host (t : HostTxn)
  deriving DecidableEq, Repr

/-- Why a decoder rejects what it is given. The first five are the refused transactions of
`46_host_commands.md` R187. -/
inductive DecodeError where
  /-- bits 13:8 of the command word are not all 0 (R92) -/
  | reservedBits
  /-- `DGRAM` with a nonzero `OFF` (R92) -/
  | dgramOffset
  /-- `DGRAM` with `L > 65536` (R92) -/
  | datagramTooLong
  /-- a register offset that is not a multiple of 8 or is above 0xF8 (R28) -/
  | badOffset
  /-- the data that follows is not the data of the command word's kind (R92; log entry 9) -/
  | dataMismatch
  /-- a payload longer than a datagram can carry (R130); no `DGRAM` step meets it -/
  | payloadTooLong
  /-- not a payload of NAL type 28 (R87); the FU-A level is reached from type 28 only -/
  | notFuPayload
  deriving DecidableEq, Repr

end Sys2Proof
end

