-- ==== Sys2Proof/WellFormed.lean ====
section
/-! DEFINITION. Which terms of `Instr` are instructions: the ranges the rows of `spec/opcode_table.json` give their
operands. -/

namespace Sys2Proof

/-- A register offset the interface carries: a multiple of 8 from 0x00 to 0xF8 (`10_state.md` R28). -/
def offsetOk (off : BitVec 8) : Bool := off.toNat % 8 == 0

/-- `n` bytes after the NAL header byte fit a payload (`41_nal_classifier.md` R130). -/
def bodyFits (body : Bytes) : Bool := decide (body.length + 1 ≤ maxPayloadBytes)

/-- The operand ranges of each row. The rows of a `CTRL` write divide its values by the action applied first
(`10_state.md` R30; log entry 10); a `REG_WRITE` is one that no row of its own stands for (R93). -/
def Instr.wellFormed : Instr → Bool
  | .rtpAcceptV2 _ _ _ => true
  | .rtpDropV0 _ _ _ => true
  | .rtpDropV1 _ _ _ => true
  | .rtpDropV3 _ _ _ => true
  | .singleNalT0015 _ _ _ body => bodyFits body
  | .singleNalT1623 _ _ _ body => bodyFits body
  | .stapA _ _ units => bodyFits units
  | .unsupportedT25 _ _ body => bodyFits body
  | .unsupportedT2627 _ _ _ body => bodyFits body
  | .fuA _ _ body => bodyFits body
  | .unsupportedT29 _ _ body => bodyFits body
  | .unsupportedT3031 _ _ _ body => bodyFits body
  | .emptyPayload => true
  | .fuAMiddle _ _ _ _ frag => decide (frag.length + 2 ≤ maxPayloadBytes)
  | .fuAEnd _ _ _ _ frag => decide (frag.length + 2 ≤ maxPayloadBytes)
  | .fuAStart _ _ _ _ frag => decide (frag.length + 2 ≤ maxPayloadBytes)
  | .fuAStartEnd _ _ _ _ frag => decide (frag.length + 2 ≤ maxPayloadBytes)
  | .fuATooShort _ _ => true
  | .seqDuplicate => true
  | .seqInOrder => true
  | .seqLost delta => decide (2 ≤ delta.toNat ∧ delta.toNat ≤ 32767)
  | .seqOutOfOrder delta => decide (32768 ≤ delta.toNat)
  | .seqFirst => true
  | .dgram d => decide (d.length ≤ maxDgramBytes)
  | .regRead off => offsetOk off
  | .regWrite off v => offsetOk off && (off != 0x10#8) && (off != 0x18#8) &&
      ((off != 0x00#8) || (!v.getLsbD 0 && !v.getLsbD 1 && !v.getLsbD 2))
  | .reservedKind3 _ => true
  | .ctrlStop v => v.getLsbD 0 && !v.getLsbD 1 && !v.getLsbD 2
  | .ctrlSessionReset v => v.getLsbD 1
  | .ctrlReplayClear v => v.getLsbD 2 && !v.getLsbD 1
  | .scCfgWrite _ => true
  | .replayPushWrite _ => true

end Sys2Proof
end

