-- ==== Sys2Proof/Decode.lean ====
section
/-! DEFINITION. The decoders of the four decode levels of `30_encoding.md` and, after them, the encoder. Each level
has one dispatch function (`versionCases`, `nalCases`, `fuCases`, `seqCases`): the decoder and the pipeline of
`Machine/` both go through it, so a row is told apart in one place. -/

namespace Sys2Proof

/-! ## Bit fields -/

/-- `F`, bit 7 of a NAL header byte (R85). -/
def nalF (b : Byte) : Bool := b.getLsbD 7

/-- `NRI`, bits 6:5 of a NAL header byte (R85). -/
def nalNri (b : Byte) : BitVec 2 := b.extractLsb' 5 2

/-- `TYPE`, bits 4:0 of a NAL header byte (R85): `payload[0] & 0x1F`. -/
def nalType (b : Byte) : BitVec 5 := b.extractLsb' 0 5

/-- A NAL header byte, `(F<<7) | (NRI<<5) | TYPE` (R85). -/
def nalHeader (f : Bool) (nri : BitVec 2) (t : BitVec 5) : Byte := BitVec.ofBool f ++ nri ++ t

/-- An FU header byte: `S` bit 7, `E` bit 6, the ignored bit 5, `OT` bits 4:0 (R87). -/
def fuHeader (start fin r : Bool) (ot : BitVec 5) : Byte :=
  BitVec.ofBool start ++ BitVec.ofBool fin ++ BitVec.ofBool r ++ ot

/-- Byte 0 of the RTP header: `V` 7:6, `P` 5, `X` 4, `CC` 3:0 (R80). -/
def rtpByte0 (v : BitVec 2) (p x : Bool) (cc : BitVec 4) : Byte :=
  v ++ BitVec.ofBool p ++ BitVec.ofBool x ++ cc

/-- The command word `KIND[15:14] RSV[13:8] OFF[7:0]` (R92). -/
def commandWord (kind : BitVec 2) (off : BitVec 8) : BitVec 16 := kind ++ 0#6 ++ off

/-! ## Dispatch, one function per level -/

/-- The version filter's rows (R94, R115). -/
def versionCases {α : Type} (v : BitVec 2) (v0 v1 v2 v3 : α) : α :=
  if v = 2#2 then v2 else if v = 0#2 then v0 else if v = 1#2 then v1 else v3

/-- The NAL type map (R86, R130): an empty payload has no type byte; otherwise bits 4:0 of the first byte select. -/
def nalCases {α : Type} (pl : Bytes) (empty : α)
    (single0 : Bool → BitVec 2 → BitVec 4 → Bytes → α) (single1 : Bool → BitVec 2 → BitVec 3 → Bytes → α)
    (stap un25 : Bool → BitVec 2 → Bytes → α) (un26 : Bool → BitVec 2 → BitVec 1 → Bytes → α)
    (fu un29 : Bool → BitVec 2 → Bytes → α) (un30 : Bool → BitVec 2 → BitVec 1 → Bytes → α) : α :=
  match pl with
  | [] => empty
  | b :: body =>
    let f := nalF b
    let nri := nalNri b
    let t := nalType b
    if t.toNat < 16 then single0 f nri (t.setWidth 4) body
    else if t.toNat < 24 then single1 f nri (t.setWidth 3) body
    else if t.toNat = 24 then stap f nri body
    else if t.toNat = 25 then un25 f nri body
    else if t.toNat < 28 then un26 f nri (t.setWidth 1) body
    else if t.toNat = 28 then fu f nri body
    else if t.toNat = 29 then un29 f nri body
    else un30 f nri (t.setWidth 1) body

/-- The FU-A rows by start and end bit (R87, R145). The handlers are given the ignored bit 5 and `OT`. -/
def fuCases {α : Type} (fuh : Byte) (middle fin start startEnd : Bool → BitVec 5 → α) : α :=
  let r := fuh.getLsbD 5
  let ot := fuh.extractLsb' 0 5
  if fuh.getLsbD 7 then (if fuh.getLsbD 6 then startEnd r ot else start r ot)
  else (if fuh.getLsbD 6 then fin r ot else middle r ot)

/-- The tracker's rows, tried in the table's order (R170): `none` is `SEQ_VALID = 0`. -/
def seqCases {α : Type} (delta : Option (BitVec 16)) (first duplicate inOrder : α)
    (lost outOfOrder : BitVec 16 → α) : α :=
  match delta with
  | none => first
  | some d =>
    if d.toNat = 0 then duplicate
    else if d.toNat = 1 then inOrder
    else if d.toNat < 32768 then lost d
    else outOfOrder d

/-! ## Decoders -/

/-- The version row of byte `D[0]`. -/
def decodeVersion (b : Byte) : Instr :=
  let p := b.getLsbD 5
  let x := b.getLsbD 4
  let cc := b.extractLsb' 0 4
  versionCases (b.extractLsb' 6 2) (.rtpDropV0 p x cc) (.rtpDropV1 p x cc) (.rtpAcceptV2 p x cc) (.rtpDropV3 p x cc)

/-- The classifier row of a payload. -/
def decodePayload (pl : Bytes) : Instr :=
  nalCases pl .emptyPayload .singleNalT0015 .singleNalT1623 .stapA .unsupportedT25 .unsupportedT2627 .fuA
    .unsupportedT29 .unsupportedT3031

/-- The FU-A row of the bytes after the FU indicator (R140). -/
def decodeFu (f : Bool) (nri : BitVec 2) (body : Bytes) : Instr :=
  match body with
  | [] => .fuATooShort f nri
  | fuh :: frag =>
    fuCases fuh (fun r ot => .fuAMiddle f nri r ot frag) (fun r ot => .fuAEnd f nri r ot frag)
      (fun r ot => .fuAStart f nri r ot frag) (fun r ot => .fuAStartEnd f nri r ot frag)

/-- The sequence row of a delta. -/
def decodeSequence (delta : Option (BitVec 16)) : Instr :=
  seqCases delta .seqFirst .seqDuplicate .seqInOrder .seqLost .seqOutOfOrder

/-- The row of a register write (R93). A `CTRL` write goes to the row of the action applied first (R30; DESIGN
CHOICE, log entry 10). -/
def decodeWrite (off : BitVec 8) (v : Reg64) : Instr :=
  if off = 0x00#8 then
    if v.getLsbD 1 then .ctrlSessionReset v
    else if v.getLsbD 2 then .ctrlReplayClear v
    else if v.getLsbD 0 then .ctrlStop v
    else .regWrite off v
  else if off = 0x10#8 then .scCfgWrite v
  else if off = 0x18#8 then .replayPushWrite v
  else .regWrite off v

/-- A host transaction (R92, R187). Every transaction the interface cannot carry is rejected by name, except
`KIND = 3`, which is a row of the table. -/
def decodeTxn (t : HostTxn) : Except DecodeError Instr :=
  let kind := t.cw.extractLsb' 14 2
  let off := t.cw.extractLsb' 0 8
  if kind = 3#2 then .ok (.reservedKind3 (t.cw.extractLsb' 0 14))
  else if t.cw.extractLsb' 8 6 ≠ 0#6 then .error .reservedBits
  else if kind = 0#2 then
    if off ≠ 0#8 then .error .dgramOffset
    else match t.data with
      | .datagram len bytes =>
        if len.toNat > maxDgramBytes then .error .datagramTooLong
        else if bytes.length ≠ len.toNat then .error .dataMismatch
        else .ok (.dgram bytes)
      | _ => .error .dataMismatch
  else if !offsetOk off then .error .badOffset
  else if kind = 1#2 then
    match t.data with
    | .none => .ok (.regRead off)
    | _ => .error .dataMismatch
  else
    match t.data with
    | .value v => .ok (decodeWrite off v)
    | _ => .error .dataMismatch

/-- The decoder at every level. -/
def decodeCode : Code → Except DecodeError Instr
  | .versionByte b => .ok (decodeVersion b)
  | .payload pl => if pl.length > maxPayloadBytes then .error .payloadTooLong else .ok (decodePayload pl)
  | .fuPayload pl =>
    if pl.length > maxPayloadBytes then .error .payloadTooLong
    else match pl with
      | [] => .error .notFuPayload
      | b :: body => if nalType b = 28#5 then .ok (decodeFu (nalF b) (nalNri b) body) else .error .notFuPayload
  | .sequence delta => .ok (decodeSequence delta)
  | .host t => decodeTxn t

/-! ## Encoder -/

/-- A register write transaction. -/
def writeTxn (off : BitVec 8) (v : Reg64) : HostTxn := ⟨commandWord 2#2 off, .value v⟩

/-- A register read transaction. -/
def readTxn (off : BitVec 8) : HostTxn := ⟨commandWord 1#2 off, .none⟩

/-- A datagram transaction. -/
def dgramTxn (d : Bytes) : HostTxn := ⟨commandWord 0#2 0#8, .datagram (BitVec.ofNat 17 d.length) d⟩

/-- The coded form of an instruction, at its row's level, written from the encodings of `30_encoding.md`. -/
def encode : Instr → Code
  | .rtpAcceptV2 p x cc => .versionByte (rtpByte0 2#2 p x cc)
  | .rtpDropV0 p x cc => .versionByte (rtpByte0 0#2 p x cc)
  | .rtpDropV1 p x cc => .versionByte (rtpByte0 1#2 p x cc)
  | .rtpDropV3 p x cc => .versionByte (rtpByte0 3#2 p x cc)
  | .singleNalT0015 f nri t body => .payload (nalHeader f nri (0#1 ++ t) :: body)
  | .singleNalT1623 f nri t body => .payload (nalHeader f nri (2#2 ++ t) :: body)
  | .stapA f nri units => .payload (nalHeader f nri 24#5 :: units)
  | .unsupportedT25 f nri body => .payload (nalHeader f nri 25#5 :: body)
  | .unsupportedT2627 f nri t body => .payload (nalHeader f nri (13#4 ++ t) :: body)
  | .fuA f nri body => .payload (nalHeader f nri 28#5 :: body)
  | .unsupportedT29 f nri body => .payload (nalHeader f nri 29#5 :: body)
  | .unsupportedT3031 f nri t body => .payload (nalHeader f nri (15#4 ++ t) :: body)
  | .emptyPayload => .payload []
  | .fuAMiddle f nri r ot frag => .fuPayload (nalHeader f nri 28#5 :: fuHeader false false r ot :: frag)
  | .fuAEnd f nri r ot frag => .fuPayload (nalHeader f nri 28#5 :: fuHeader false true r ot :: frag)
  | .fuAStart f nri r ot frag => .fuPayload (nalHeader f nri 28#5 :: fuHeader true false r ot :: frag)
  | .fuAStartEnd f nri r ot frag => .fuPayload (nalHeader f nri 28#5 :: fuHeader true true r ot :: frag)
  | .fuATooShort f nri => .fuPayload [nalHeader f nri 28#5]
  | .seqDuplicate => .sequence (some 0#16)
  | .seqInOrder => .sequence (some 1#16)
  | .seqLost delta => .sequence (some delta)
  | .seqOutOfOrder delta => .sequence (some delta)
  | .seqFirst => .sequence none
  | .dgram d => .host (dgramTxn d)
  | .regRead off => .host (readTxn off)
  | .regWrite off v => .host (writeTxn off v)
  | .reservedKind3 low => .host ⟨3#2 ++ low, .none⟩
  | .ctrlStop v => .host (writeTxn 0x00#8 v)
  | .ctrlSessionReset v => .host (writeTxn 0x00#8 v)
  | .ctrlReplayClear v => .host (writeTxn 0x00#8 v)
  | .scCfgWrite v => .host (writeTxn 0x10#8 v)
  | .replayPushWrite v => .host (writeTxn 0x18#8 v)

/-! ## The table's words -/

/-- The transaction whose command word is the low 16 bits of `w` and whose data is the bits above them: a 64-bit
value, or a 17-bit length with a datagram of zero bytes. -/
def tableTxn (w : Nat) : HostTxn :=
  let cw := BitVec.ofNat 16 w
  let kind := cw.extractLsb' 14 2
  let len := BitVec.ofNat 17 (w >>> 16)
  if kind = 0#2 then ⟨cw, .datagram len (List.replicate len.toNat 0#8)⟩
  else if kind = 2#2 then ⟨cw, .value (BitVec.ofNat 64 (w >>> 16))⟩
  else ⟨cw, .none⟩

/-- Which coded form a table word is. The table numbers words of five formats whose patterns overlap, and a word
does not name its format, so one is picked (DESIGN CHOICE, log entry 4). One byte: byte `D[0]` when its low six bits
are 0 and its version is not 0, else a one-byte payload. Two bytes or more: a host transaction if the interface
carries it, else an FU word if its type is 28, else a sequence delta. -/
def tableCode (nbits w : Nat) : Code :=
  if nbits ≤ 8 then
    let b := BitVec.ofNat 8 w
    if b.extractLsb' 0 6 = 0#6 ∧ b.extractLsb' 6 2 ≠ 0#2 then .versionByte b else .payload [b]
  else
    match decodeTxn (tableTxn w) with
    | .ok _ => .host (tableTxn w)
    | .error _ =>
      let c := BitVec.ofNat 16 w
      if c.extractLsb' 8 5 = 28#5 then .fuPayload [c.extractLsb' 8 8, c.extractLsb' 0 8] else .sequence (some c)

/-- The instruction the decoders read from a word of `spec/opcode_table.json`, bit 0 the least significant. -/
def decodeTableWord (nbits w : Nat) : Option Instr :=
  match decodeCode (tableCode nbits w) with
  | .ok i => some i
  | .error _ => none

end Sys2Proof
end

