-- ==== Sys2Proof/Machine/State.lean ====
section
/-! DEFINITION. The state of the block: everything `10_state.md` R20 to R27 and `20_memory.md` R60 give it, as plain
data, and the state after `RESET` (`70_reset_and_hazards.md` R230). -/

namespace Sys2Proof.Machine

/-- Datagram status (`60_exceptions.md` R210). -/
inductive Status where
  | accepted
  | headerTooShort
  | invalidExtensionLength
  | invalidPadding
  | versionDropped
  | stopped
  deriving DecidableEq, Repr

/-- Depacketizer event (`60_exceptions.md` R210). -/
inductive Event where
  | abandonedFragment
  | fuContinuationWithoutStart
  | stapLengthOverflow
  | unsupportedNalType
  | fuTooShort
  | emptyPayload
  | fragmentOverflow
  deriving DecidableEq, Repr

/-- Sequence class (`45_sequence.md` R176). -/
inductive SeqClass where
  | none
  | inOrder
  | lost
  | duplicate
  | outOfOrder
  deriving DecidableEq, Repr

/-- A start-code length. No other length exists (`30_encoding.md` R90, `44_start_code.md` R161). -/
inductive ScLen where
  | three
  | four
  deriving DecidableEq, Repr

/-- `SC_CFG.MODE` (`10_state.md` R25, R32). -/
inductive ScMode where
  | fixed
  | replay
  deriving DecidableEq, Repr

/-- The result record of one datagram (`40_rtp_header.md` R118). -/
structure ResultRecord where
  status : Status
  seqClass : SeqClass
  lostN : Nat
  events : List Event
  emitted : Nat
  deriving DecidableEq, Repr

/-- The record a datagram starts with (R110). -/
def ResultRecord.start : ResultRecord := ⟨.accepted, .none, 0, [], 0⟩

/-- Fragment reassembly state (R23). -/
structure Frag where
  /-- `FRAG_ACTIVE` -/
  active : Bool
  /-- `FRAG_OT` -/
  ot : BitVec 5
  /-- `FRAG_HDR` -/
  hdr : Byte
  /-- `ACC` -/
  acc : Bytes
  deriving DecidableEq, Repr

/-- The `Idle` state, every field cleared (R23). -/
def Frag.idle : Frag := ⟨false, 0#5, 0#8, []⟩

/-- Sequence state (R24). -/
structure SeqState where
  /-- `SEQ_VALID` -/
  valid : Bool
  /-- `SEQ_LAST` -/
  last : BitVec 16
  deriving DecidableEq, Repr

/-- Start-code plan (R25). `SC_CFG.LEN` is `len`. -/
structure Plan where
  mode : ScMode
  len : ScLen
  /-- `REPLAY_LIST` -/
  list : List ScLen
  /-- `REPLAY_CURSOR` -/
  cursor : Nat
  /-- `REPLAY_EXHAUSTED` -/
  exhausted : Bool
  deriving DecidableEq, Repr

/-- The ten counters (R26). -/
structure Counters where
  packets : Reg64
  payloadBytes : Reg64
  nalUnits : Reg64
  lost : Reg64
  outOfOrder : Reg64
  duplicate : Reg64
  markers : Reg64
  fuaComplete : Reg64
  stapaUnits : Reg64
  decodeErrors : Reg64
  deriving DecidableEq, Repr

/-- Every counter 0 (R26, R184, R230). -/
def Counters.zero : Counters := ⟨0, 0, 0, 0, 0, 0, 0, 0, 0, 0⟩

/-- The working registers of one datagram, at the widths of R20 (log entry 19). -/
structure Working where
  v : BitVec 2
  p : Bool
  x : Bool
  cc : BitVec 4
  m : Bool
  pt : BitVec 7
  seq : BitVec 16
  ts : BitVec 32
  ssrc : BitVec 32
  hlen : BitVec 19
  xlen : BitVec 16
  pad : BitVec 8
  poff : BitVec 17
  plen : BitVec 17
  ntype : BitVec 5
  fui : Byte
  fuh : Byte
  s : Bool
  e : Bool
  ot : BitVec 5
  rhdr : Byte
  off : BitVec 17
  ulen : BitVec 16
  deriving DecidableEq, Repr

/-- The working registers outside a datagram. R230 leaves them unspecified and no rule reads one before writing it;
0 is a DESIGN CHOICE (log entry 5). -/
def Working.idle : Working where
  v := 0
  p := false
  x := false
  cc := 0
  m := false
  pt := 0
  seq := 0
  ts := 0
  ssrc := 0
  hlen := 0
  xlen := 0
  pad := 0
  poff := 0
  plen := 0
  ntype := 0
  fui := 0
  fuh := 0
  s := false
  e := false
  ot := 0
  rhdr := 0
  off := 0
  ulen := 0

/-- The machine: the block's persistent state, its streams, the transient state of one `DGRAM` step, and the host's
side of the port. -/
structure State where
  /-- the parameters of R7, never changed by a step (log entry 8) -/
  cfg : Config
  /-- what the host has still to issue, oldest first (log entry 2) -/
  inputs : List HostInput
  /-- `STOPPED` (R22) -/
  stopped : Bool
  frag : Frag
  seq : SeqState
  plan : Plan
  ctr : Counters
  /-- the output record stream, oldest first (`20_memory.md` R63) -/
  output : List Bytes
  /-- the result stream, oldest first (`20_memory.md` R64) -/
  results : List ResultRecord
  /-- the values `REG_READ` answered, oldest first (log entry 7) -/
  answers : List Reg64
  /-- `D`, the datagram being processed; empty between datagrams (R60; log entry 6) -/
  dgram : Bytes
  /-- the working registers (R20; log entry 5) -/
  w : Working
  /-- the open result record (R110; log entry 6) -/
  res : ResultRecord
  deriving DecidableEq, Repr

/-- Why the machine stops with a fault. -/
inductive Fault where
  /-- Raised by `execRtpAcceptV2` in a state whose `POFF` and `PLEN` do not lie inside `D`: the bytes do not exist
  (`00_scope.md` R10: no rule reads outside `D`). No `DGRAM` step reaches it. Safe (log entry 16). -/
  | readOutsideDatagram
  deriving DecidableEq, Repr

/-- Why the machine refuses. -/
inductive Refusal where
  /-- Answered by `exec` alone, for an instruction without a meaning. Safe. -/
  | notModelled (mnemonic : String)
  /-- Answered by `step`, and by the register and datagram meanings for an operand out of range: a transaction the
  interface cannot carry (`46_host_commands.md` R187). The host's program is stuck there, as the spec says. Safe. -/
  | undecodable (e : DecodeError)
  /-- Answered by `execReservedKind3`: a command word with `KIND = 3` spells no transaction (R187). Safe. -/
  | reservedKind
  deriving DecidableEq, Repr

/-- The start-code plan after `RESET`: `SC_CFG = 0x2`, an empty list (R230). -/
def Plan.reset : Plan := ⟨.fixed, .four, [], 0, false⟩

/-- The state after `RESET` (`70_reset_and_hazards.md` R230), with the default parameters and nothing issued by the
host. -/
def State.reset : State where
  cfg := Config.default
  inputs := []
  stopped := false
  frag := Frag.idle
  seq := ⟨false, 0#16⟩
  plan := Plan.reset
  ctr := Counters.zero
  output := []
  results := []
  answers := []
  dgram := []
  w := Working.idle
  res := ResultRecord.start

end Sys2Proof.Machine
end

