-- ==== Sys2Proof/Machine/Ops.lean ====
section
/-! DEFINITION. The shared operations of the block (`00_scope.md` R10): raising an event, emitting a record, the
start-code formatter, the fragment abort, opening and closing a datagram's step, the input port and `RESET`. The block
has no traps (`60_exceptions.md` R213, R215): `State.raise` is the one way an error is reported, and there is no
exception entry and no return from one. -/

namespace Sys2Proof.Machine

/-- The outcome of a meaning. -/
abbrev Result := Host.Outcome State Fault Refusal

/-- Runs the next stage of a step in the state the stage before it left. -/
def andThen (o : Result) (f : State → Result) : Result :=
  match o with
  | .next t => f t
  | .fault e => .fault e
  | .refused r => .refused r

/-! ## Events, records, counters -/

/-- `raise E` of a depacketizer event: it is listed in the result record and counts one error
(`60_exceptions.md` R212). -/
def State.raise (ev : Event) (s : State) : State :=
  { s with
    ctr := { s.ctr with decodeErrors := s.ctr.decodeErrors + 1 }
    res := { s.res with events := s.res.events ++ [ev] } }

/-- `Emit(b)`: appends one record to the output stream (`20_memory.md` R63; `emitted`, R110). -/
def State.emit (b : Bytes) (s : State) : State :=
  { s with
    output := s.output ++ [b]
    res := { s.res with emitted := s.res.emitted + 1 } }

/-- `x[NAL_UNITS] += 1` (R26). -/
def State.countNal (s : State) : State :=
  { s with ctr := { s.ctr with nalUnits := s.ctr.nalUnits + 1 } }

/-- `x[FUA_COMPLETE] += 1` (R143). -/
def State.countFua (s : State) : State :=
  { s with ctr := { s.ctr with fuaComplete := s.ctr.fuaComplete + 1 } }

/-- `x[STAPA_UNITS] += 1` (R150). -/
def State.countStapa (s : State) : State :=
  { s with ctr := { s.ctr with stapaUnits := s.ctr.stapaUnits + 1 } }

/-- `AcceptCounters` (`40_rtp_header.md` R116), from the working registers `PLEN` and `M`. -/
def State.acceptCounters (s : State) : State :=
  { s with
    ctr := { s.ctr with
      packets := s.ctr.packets + 1
      payloadBytes := s.ctr.payloadBytes + s.w.plen.setWidth 64
      markers := s.ctr.markers + (BitVec.ofBool s.w.m).setWidth 64 } }

/-! ## The start-code formatter -/

/-- `StartCode(n)` (`44_start_code.md` R161). -/
def startCode : ScLen → Bytes
  | .three => [0x00#8, 0x00#8, 0x01#8]
  | .four => [0x00#8, 0x00#8, 0x00#8, 0x01#8]

/-- `SC()` as a function of the plan: the length chosen and the plan after the call (`44_start_code.md` R160). -/
def Plan.next (p : Plan) : ScLen × Plan :=
  if p.mode = .replay ∧ p.exhausted = false then
    match p.list[p.cursor]? with
    | some n => (n, { p with cursor := p.cursor + 1 })
    | none => (p.len, { p with exhausted := true })
  else (p.len, p)

/-- The bytes the next `SC()` call returns. -/
def State.nextStartCode (s : State) : Bytes := startCode s.plan.next.1

/-- The planner state after one `SC()` call. -/
def State.advancePlan (s : State) : State := { s with plan := s.plan.next.2 }

/-- `Emit(SC() ++ nal)` and `NAL_UNITS += 1`, the emission of `41_nal_classifier.md` R131 and
`43_stap_a.md` R150. -/
def State.emitNal (nal : Bytes) (s : State) : State :=
  (s.advancePlan.emit (s.nextStartCode ++ nal)).countNal

/-! ## Fragment state -/

/-- The fragment state becomes `Idle` with every field cleared (`10_state.md` R23). -/
def State.closeFrag (s : State) : State := { s with frag := Frag.idle }

/-- `AbandonIfActive` (`41_nal_classifier.md` R134). -/
def State.abandonIfActive (s : State) : State :=
  if s.frag.active then (s.raise .abandonedFragment).closeFrag else s

/-- Whether `n` bytes fit the accumulator (`42_fu_a.md` R144). -/
def fragFits (c : Config) (n : Nat) : Bool :=
  match c.maxFragBytes with
  | none => true
  | some m => decide (n ≤ m)

/-! ## Opening and closing a datagram's step -/

/-- The start of a `DGRAM` step: `D`, fresh working registers, a fresh result record (R20, R110). -/
def State.openDgram (d : Bytes) (s : State) : State :=
  { s with dgram := d, w := Working.idle, res := ResultRecord.start }

/-- Sets the result record's status (R110). -/
def State.setStatus (st : Status) (s : State) : State :=
  { s with res := { s.res with status := st } }

/-- `ResultOut(res)` (`40_rtp_header.md` R118) and the end of the datagram: no working register's value survives
into the next datagram (R20; log entries 5, 6). -/
def State.resultOut (s : State) : State :=
  { s with
    results := s.results ++ [s.res]
    dgram := []
    w := Working.idle
    res := ResultRecord.start }

/-! ## The input port and RESET -/

/-- The host's next input, taken off the port; `none` when the host has nothing left (log entry 2). -/
def State.takeInput (s : State) : Option (HostInput × State) :=
  match s.inputs with
  | [] => none
  | i :: rest => some (i, { s with inputs := rest })

/-- The hardware event `RESET` (`70_reset_and_hazards.md` R230, R231): every piece of the block's state takes its reset
value and the streams are emptied. The parameters and what the host has still to issue are not the block's state and
stay (log entry 17). -/
def State.hardReset (s : State) : State := { State.reset with cfg := s.cfg, inputs := s.inputs }

/-- Places one transaction as the host's next input. -/
def State.issue (t : HostTxn) (s : State) : State := { s with inputs := .txn t :: s.inputs }

/-- Places the instruction of a table word where the next step runs it: a host transaction as it is; a word of a lower
level inside the shortest datagram that brings it to its stage (log entry 4). -/
def State.placeCode (c : Code) (s : State) : State :=
  match c with
  | .host t => s.issue t
  | .versionByte b => s.issue (dgramTxn (b :: List.replicate 11 0#8))
  | .payload pl => s.issue (dgramTxn (0x80#8 :: List.replicate 11 0#8 ++ pl))
  | .fuPayload pl => s.issue (dgramTxn (0x80#8 :: List.replicate 11 0#8 ++ pl))
  | .sequence none => { s.issue (dgramTxn (0x80#8 :: List.replicate 11 0#8)) with seq := ⟨false, s.seq.last⟩ }
  | .sequence (some d) =>
    let q := s.seq.last + d
    { s.issue (dgramTxn ([0x80#8, 0#8, q.extractLsb' 8 8, q.extractLsb' 0 8] ++ List.replicate 8 0#8)) with
      seq := ⟨true, s.seq.last⟩ }

end Sys2Proof.Machine
end

