-- ==== Sys2Proof/Machine/Operands.lean ====
section
/-! DEFINITION. Operand assembly: reads of the datagram, the RTP header and payload bounds (`30_encoding.md` R80 to R84,
`40_rtp_header.md` R111 to R114), and the FU-A operands (R87, R88). Every read carries the proof that its bytes exist,
so no read touches bytes outside `D` (`20_memory.md` R65). -/

namespace Sys2Proof.Machine

/-! ## Reads of a byte string -/

/-- `MemRead(a, 1)` (`00_scope.md` R10). -/
def memRead1 (d : Bytes) (a : Nat) (h : a + 1 ≤ d.length) : BitVec 8 := d[a]'(by omega)

/-- `MemRead(a, 2)`, most significant byte first (R10, `20_memory.md` R61). -/
def memRead2 (d : Bytes) (a : Nat) (h : a + 2 ≤ d.length) : BitVec 16 :=
  d[a]'(by omega) ++ d[a + 1]'(by omega)

/-- `MemRead(a, 4)`, most significant byte first (R10, `20_memory.md` R61). -/
def memRead4 (d : Bytes) (a : Nat) (h : a + 4 ≤ d.length) : BitVec 32 :=
  d[a]'(by omega) ++ d[a + 1]'(by omega) ++ d[a + 2]'(by omega) ++ d[a + 3]'(by omega)

/-- `sub(b, i, j)`: the bytes at indices `i` to `j - 1` (`00_scope.md` R9). -/
def sub (b : Bytes) (i j : Nat) : Bytes := (b.drop i).take (j - i)

/-! ## The RTP header -/

/-- The fixed-header unpack (R111, R80). -/
def unpackFixed (d : Bytes) (h : 12 ≤ d.length) : Working :=
  let b0 := memRead1 d 0 (by omega)
  let b1 := memRead1 d 1 (by omega)
  { Working.idle with
    v := b0.extractLsb' 6 2
    p := b0.getLsbD 5
    x := b0.getLsbD 4
    cc := b0.extractLsb' 0 4
    m := b1.getLsbD 7
    pt := b1.extractLsb' 0 7
    seq := memRead2 d 2 (by omega)
    ts := memRead4 d 4 (by omega)
    ssrc := memRead4 d 8 (by omega) }

/-- The status of an extension overrun, condition (c) of R113 (`90_conflicts.md` C1). -/
def extOverrunStatus (c : Config) : Status :=
  match c.extOverrun with
  | .headerTooShort => .headerTooShort
  | .invalidExtensionLength => .invalidExtensionLength

/-- `HLEN`, `PAD`, `POFF` and `PLEN` (R112). The spec computes them without wrap-around (R84) and they are stored at the
widths of R20, which hold them for every datagram that can be presented (log entry 19). -/
def Working.withBounds (w : Working) (hlen : Nat) (pad : BitVec 8) (plen : Nat) : Working :=
  { w with
    hlen := BitVec.ofNat 19 hlen
    pad := pad
    poff := BitVec.ofNat 17 hlen
    plen := BitVec.ofNat 17 plen }

/-- The end of `HeaderDecode`: padding and payload bounds, once `HLEN ≤ L` is known (R112, R114). -/
def payloadBounds (d : Bytes) (w : Working) (hlen : Nat) (h12 : 12 ≤ hlen) (h : hlen ≤ d.length) :
    Except Status Working :=
  if w.p then
    let pad := memRead1 d (d.length - 1) (by omega)
    if pad.toNat = 0 ∨ pad.toNat > d.length - hlen then .error .invalidPadding
    else .ok (w.withBounds hlen pad (d.length - hlen - pad.toNat))
  else .ok (w.withBounds hlen 0 (d.length - hlen))

/-- `HeaderDecode(D)` (`40_rtp_header.md` R112): the checks of R113 in the order (a), (b) or (d), (c), then R114. -/
def headerDecode (c : Config) (d : Bytes) : Except Status Working :=
  if h12 : d.length < 12 then .error .headerTooShort
  else
    let w := unpackFixed d (by omega)
    let h0 := 12 + 4 * w.cc.toNat
    if w.x then
      if hb : d.length < h0 + 4 then .error .headerTooShort
      else
        let xlen := memRead2 d (h0 + 2) (by omega)
        let hlen := h0 + 4 + 4 * xlen.toNat
        if hc : d.length < hlen then .error (extOverrunStatus c)
        else payloadBounds d { w with xlen := xlen } hlen (by omega) (by omega)
    else
      if hd : d.length < h0 then .error .headerTooShort
      else payloadBounds d w h0 (by omega) (by omega)

/-- The payload `sub(D, POFF, POFF + PLEN)` of the datagram being processed (R110), if its bytes exist. -/
def State.payload? (s : State) : Option Bytes :=
  let i := s.w.poff.toNat
  let j := i + s.w.plen.toNat
  if j ≤ s.dgram.length then some (sub s.dgram i j) else none

/-! ## Classifier and FU-A operands -/

/-- `NTYPE <- PL[0][4:0]` (`41_nal_classifier.md` R130); an empty payload has no type byte. -/
def State.setNtype (pl : Bytes) (s : State) : State :=
  match pl with
  | [] => s
  | b :: _ => { s with w := { s.w with ntype := nalType b } }

/-- `RHDR <- (FUI & 0x80) | (FUI & 0x60) | OT` (R88, `42_fu_a.md` R140). -/
def rebuiltHeader (fui : Byte) (ot : BitVec 5) : Byte :=
  (fui &&& 0x80#8) ||| (fui &&& 0x60#8) ||| ot.setWidth 8

/-- The FU-A operand decode of R140: `FUI`, `FUH`, `S`, `E`, `OT`, `RHDR`. -/
def State.loadFu (fui fuh : Byte) (s : State) : State :=
  let ot := fuh.extractLsb' 0 5
  { s with w := { s.w with
      fui := fui
      fuh := fuh
      s := fuh.getLsbD 7
      e := fuh.getLsbD 6
      ot := ot
      rhdr := rebuiltHeader fui ot } }

/-- `ULEN <- ulen` (`43_stap_a.md` R150). -/
def State.setUlen (ulen : BitVec 16) (s : State) : State := { s with w := { s.w with ulen := ulen } }

/-- `OFF <- off` (R150). -/
def State.setOff (off : BitVec 17) (s : State) : State := { s with w := { s.w with off := off } }

end Sys2Proof.Machine
end

