-- ==== Sys2Proof/Machine/Flags.lean ====
section
/-! DEFINITION. The status flags (`10_state.md` R22), the register views over them and over the rest of the state
(R28 to R36), the register-write actions on them (`46_host_commands.md` R182 to R186), and the numeric codes of
`60_exceptions.md` R210 and `45_sequence.md` R176. None of the flags is a condition code of an arithmetic operation. -/

namespace Sys2Proof.Machine

/-! ## Codes -/

/-- Status codes (R210). -/
def Status.code : Status → Nat
  | .accepted => 0
  | .headerTooShort => 1
  | .invalidExtensionLength => 2
  | .invalidPadding => 3
  | .versionDropped => 4
  | .stopped => 5

/-- Event codes (R210). -/
def Event.code : Event → Nat
  | .abandonedFragment => 1
  | .fuContinuationWithoutStart => 2
  | .stapLengthOverflow => 3
  | .unsupportedNalType => 4
  | .fuTooShort => 5
  | .emptyPayload => 6
  | .fragmentOverflow => 7

/-- Sequence class codes (R176). -/
def SeqClass.code : SeqClass → Nat
  | .none => 0
  | .inOrder => 1
  | .lost => 2
  | .duplicate => 3
  | .outOfOrder => 4

/-! ## Register views -/

/-- `SC_CFG.MODE` as its bit (R32). -/
def ScMode.bit : ScMode → Bool
  | .fixed => false
  | .replay => true

/-- `SC_CFG.LEN` as its bit (R32). -/
def ScLen.bit : ScLen → Bool
  | .three => false
  | .four => true

/-- `STATUS` (R31): bit 0 `STOPPED`, 1 `FRAG_ACTIVE`, 2 `SEQ_VALID`, 3 `REPLAY_EXHAUSTED`, 12:8 `FRAG_OT`,
23:16 `FRAG_HDR`, 47:32 `SEQ_LAST`; every other bit reads 0. -/
def State.statusWord (s : State) : Reg64 :=
  0#16 ++ s.seq.last ++ 0#8 ++ s.frag.hdr ++ 0#3 ++ s.frag.ot ++ 0#4 ++
    BitVec.ofBool s.plan.exhausted ++ BitVec.ofBool s.seq.valid ++ BitVec.ofBool s.frag.active ++
    BitVec.ofBool s.stopped

/-- `SC_CFG` (R32): bit 0 `MODE`, bit 1 `LEN`, the rest 0. -/
def State.scCfgWord (s : State) : Reg64 :=
  0#62 ++ BitVec.ofBool s.plan.len.bit ++ BitVec.ofBool s.plan.mode.bit

/-- `REPLAY_STATUS` (R33): 31:0 `LIST_LEN`, 63:32 `CURSOR` (log entry 14). -/
def State.replayStatusWord (s : State) : Reg64 :=
  BitVec.ofNat 32 s.plan.cursor ++ BitVec.ofNat 32 s.plan.list.length

/-- `FRAG_LEN` (R35): `len(ACC)` (log entry 14). -/
def State.fragLenWord (s : State) : Reg64 := BitVec.ofNat 64 s.frag.acc.length

/-- What a read of the register at `off` returns (R28, `46_host_commands.md` R180): 0 for an unmapped offset and for
the write-only `CTRL` and `REPLAY_PUSH`. -/
def State.regValue (s : State) (off : BitVec 8) : Reg64 :=
  match off.toNat with
  | 0x08 => s.statusWord
  | 0x10 => s.scCfgWord
  | 0x20 => s.replayStatusWord
  | 0x28 => s.fragLenWord
  | 0x40 => s.ctr.packets
  | 0x48 => s.ctr.payloadBytes
  | 0x50 => s.ctr.nalUnits
  | 0x58 => s.ctr.lost
  | 0x60 => s.ctr.outOfOrder
  | 0x68 => s.ctr.duplicate
  | 0x70 => s.ctr.markers
  | 0x78 => s.ctr.fuaComplete
  | 0x80 => s.ctr.stapaUnits
  | 0x88 => s.ctr.decodeErrors
  | _ => 0

/-! ## Register-write actions -/

/-- `Stop()` (R183). -/
def State.stop (s : State) : State := { s with stopped := true }

/-- `SessionReset()` (R184): `SC_CFG`, the entries of `REPLAY_LIST` and the streams are kept. -/
def State.sessionReset (s : State) : State :=
  { s with
    frag := Frag.idle
    seq := ⟨false, 0#16⟩
    ctr := Counters.zero
    plan := { s.plan with cursor := 0, exhausted := false }
    stopped := false }

/-- `ReplayClear()` (R185). -/
def State.replayClear (s : State) : State :=
  { s with plan := { s.plan with list := [], cursor := 0, exhausted := false } }

/-- A write to `CTRL`: the actions of the set bits, in the order `SESSION_RESET`, `REPLAY_CLEAR`, `STOP`
(`10_state.md` R30, R181). -/
def State.writeCtrl (v : Reg64) (s : State) : State :=
  let s1 := if v.getLsbD 1 then s.sessionReset else s
  let s2 := if v.getLsbD 2 then s1.replayClear else s1
  if v.getLsbD 0 then s2.stop else s2

/-- A write to `SC_CFG` (R182): bits 63:2 are ignored, the cursor and the exhausted flag stay (R164). -/
def State.writeScCfg (v : Reg64) (s : State) : State :=
  { s with plan := { s.plan with
      mode := if v.getLsbD 0 then .replay else .fixed
      len := if v.getLsbD 1 then .four else .three } }

/-- A write to `REPLAY_PUSH`, `ReplayPush(v[2:0])` (R186): 3 or 4 is appended while the list is below `REPLAY_CAP`;
anything else is ignored. -/
def State.replayPush (v : Reg64) (s : State) : State :=
  if s.plan.list.length < s.cfg.replayCap then
    if v.extractLsb' 0 3 = 3#3 then { s with plan := { s.plan with list := s.plan.list ++ [.three] } }
    else if v.extractLsb' 0 3 = 4#3 then { s with plan := { s.plan with list := s.plan.list ++ [.four] } }
    else s
  else s

/-- `REG_WRITE(off, v)` (R181): read-only and unmapped offsets ignore the write. -/
def State.regWrite (off : BitVec 8) (v : Reg64) (s : State) : State :=
  if off = 0x00#8 then s.writeCtrl v
  else if off = 0x10#8 then s.writeScCfg v
  else if off = 0x18#8 then s.replayPush v
  else s

end Sys2Proof.Machine
end

