-- ==== Sys2Proof/Machine/FuA.lean ====
section
/-! DEFINITION. The FU-A fragment reassembly state machine (`42_fu_a.md`): the classifier's row `FU_A` and the rows it
dispatches to. -/

namespace Sys2Proof.Machine

/-- `FuStart()` (R141), reading `RHDR` and `OT` from the working registers. -/
def State.fuStart (frag : Bytes) (s : State) : State :=
  let s1 := s.abandonIfActive
  let seed := s1.nextStartCode ++ s1.w.rhdr :: frag
  let s2 := s1.advancePlan
  if fragFits s2.cfg seed.length then { s2 with frag := ⟨true, s2.w.ot, s2.w.rhdr, seed⟩ }
  else s2.raise .fragmentOverflow

/-- `FuCont()` (R142): whether the fragment was taken, and the state after. -/
def State.fuCont (frag : Bytes) (s : State) : Bool × State :=
  if s.frag.active then
    if fragFits s.cfg (s.frag.acc.length + frag.length) then
      (true, { s with frag := { s.frag with acc := s.frag.acc ++ frag } })
    else (false, (s.raise .fragmentOverflow).closeFrag)
  else (false, s.raise .fuContinuationWithoutStart)

/-- `FuEnd()` (R143). -/
def State.fuEnd (s : State) : State := (s.emit s.frag.acc).countNal.countFua.closeFrag

/-- The last step of R140 for a packet with `E = 1`. -/
def State.fuEndIfActive (s : State) : State := if s.frag.active then s.fuEnd else s

/-- `FU_A_TOO_SHORT` (R140): an open fragment stays open. -/
def execFuATooShort (_f : Bool) (_nri : BitVec 2) (s : State) : Result :=
  .next (s.raise .fuTooShort)

/-- `FU_A_START` (R141). -/
def execFuAStart (f : Bool) (nri : BitVec 2) (r : Bool) (ot : BitVec 5) (frag : Bytes) (s : State) : Result :=
  .next ((s.loadFu (nalHeader f nri 28#5) (fuHeader true false r ot)).fuStart frag)

/-- `FU_A_START_END` (R141, then R143). -/
def execFuAStartEnd (f : Bool) (nri : BitVec 2) (r : Bool) (ot : BitVec 5) (frag : Bytes) (s : State) : Result :=
  .next ((s.loadFu (nalHeader f nri 28#5) (fuHeader true true r ot)).fuStart frag).fuEndIfActive

/-- `FU_A_MIDDLE` (R142). -/
def execFuAMiddle (f : Bool) (nri : BitVec 2) (r : Bool) (ot : BitVec 5) (frag : Bytes) (s : State) : Result :=
  .next ((s.loadFu (nalHeader f nri 28#5) (fuHeader false false r ot)).fuCont frag).2

/-- `FU_A_END` (R142, then R143 if the fragment was taken). -/
def execFuAEnd (f : Bool) (nri : BitVec 2) (r : Bool) (ot : BitVec 5) (frag : Bytes) (s : State) : Result :=
  let c := (s.loadFu (nalHeader f nri 28#5) (fuHeader false true r ot)).fuCont frag
  .next (if c.1 then c.2.fuEndIfActive else c.2)

/-- `FU_A`, `FuA(PL)` (R140): `body` is the payload after the FU indicator. -/
def execFuA (f : Bool) (nri : BitVec 2) (body : Bytes) (s : State) : Result :=
  match body with
  | [] => execFuATooShort f nri s
  | fuh :: frag =>
    fuCases fuh (fun r ot => execFuAMiddle f nri r ot frag s) (fun r ot => execFuAEnd f nri r ot frag s)
      (fun r ot => execFuAStart f nri r ot frag s) (fun r ot => execFuAStartEnd f nri r ot frag s)

end Sys2Proof.Machine
end

