-- ==== Sys2Proof/Machine/Sequence.lean ====
section
/-! DEFINITION. The sequence-anomaly tracker (`45_sequence.md`): the rows `SEQ_FIRST`, `SEQ_DUPLICATE`, `SEQ_IN_ORDER`,
`SEQ_LOST`, `SEQ_OUT_OF_ORDER`, and `Observe`, which picks one. A row reads the packet's number from the working
register `SEQ`. -/

namespace Sys2Proof.Machine

/-- Records the class and the count of lost packets in the result record, and `SEQ_LAST <- SEQ` (R175, R176). -/
def State.noteSeq (cls : SeqClass) (n : Nat) (s : State) : State :=
  { s with
    seq := { s.seq with last := s.w.seq }
    res := { s.res with seqClass := cls, lostN := n } }

/-- `SEQ_FIRST`: the first accepted packet of the session (R170). No counter changes. -/
def execSeqFirst (s : State) : Result :=
  .next ({ s with seq := { s.seq with valid := true } }.noteSeq .inOrder 0)

/-- `SEQ_DUPLICATE`: `delta = 0` (R171). -/
def execSeqDuplicate (s : State) : Result :=
  .next ({ s with ctr := { s.ctr with duplicate := s.ctr.duplicate + 1 } }.noteSeq .duplicate 0)

/-- `SEQ_IN_ORDER`: `delta = 1` (R172). -/
def execSeqInOrder (s : State) : Result :=
  .next (s.noteSeq .inOrder 0)

/-- `SEQ_LOST`: `2 ≤ delta ≤ 32767`, `delta - 1` packets presumed lost (R173). -/
def execSeqLost (delta : BitVec 16) (s : State) : Result :=
  let n := delta.toNat - 1
  .next ({ s with ctr := { s.ctr with lost := s.ctr.lost + BitVec.ofNat 64 n } }.noteSeq .lost n)

/-- `SEQ_OUT_OF_ORDER`: `delta ≥ 32768`; `LOST` is not reduced (R174). -/
def execSeqOutOfOrder (_delta : BitVec 16) (s : State) : Result :=
  .next ({ s with ctr := { s.ctr with outOfOrder := s.ctr.outOfOrder + 1 } }.noteSeq .outOfOrder 0)

/-- `delta = (SEQ - SEQ_LAST) mod 65536`, if `SEQ_LAST` holds a value (R170). -/
def State.seqDelta (s : State) : Option (BitVec 16) :=
  if s.seq.valid then some (s.w.seq - s.seq.last) else none

/-- `Observe(SEQ)` (R170). -/
def observe (s : State) : Result :=
  seqCases s.seqDelta (execSeqFirst s) (execSeqDuplicate s) (execSeqInOrder s) (fun d => execSeqLost d s)
    (fun d => execSeqOutOfOrder d s)

end Sys2Proof.Machine
end

