-- ==== Sys2Proof/Machine/SingleNal.lean ====
section
/-! DEFINITION. The classifier's plain rows (`41_nal_classifier.md` R131 to R133): single NAL units, unsupported types
and the empty payload. -/

namespace Sys2Proof.Machine

/-- `SingleNal(PL)` (R131): abandon an open fragment, emit the whole payload behind a start code. -/
def State.singleNal (pl : Bytes) (s : State) : State := s.abandonIfActive.emitNal pl

/-- `Unsupported()` (R132): abandon an open fragment, raise the event, emit nothing. -/
def State.unsupported (s : State) : State := s.abandonIfActive.raise .unsupportedNalType

/-- `SINGLE_NAL_T00_15` (R131). -/
def execSingleNalT0015 (f : Bool) (nri : BitVec 2) (t : BitVec 4) (body : Bytes) (s : State) : Result :=
  .next (s.singleNal (nalHeader f nri (0#1 ++ t) :: body))

/-- `SINGLE_NAL_T16_23` (R131). -/
def execSingleNalT1623 (f : Bool) (nri : BitVec 2) (t : BitVec 3) (body : Bytes) (s : State) : Result :=
  .next (s.singleNal (nalHeader f nri (2#2 ++ t) :: body))

/-- `UNSUPPORTED_T25` (R132). -/
def execUnsupportedT25 (_f : Bool) (_nri : BitVec 2) (_body : Bytes) (s : State) : Result :=
  .next s.unsupported

/-- `UNSUPPORTED_T26_27` (R132). -/
def execUnsupportedT2627 (_f : Bool) (_nri : BitVec 2) (_t : BitVec 1) (_body : Bytes) (s : State) : Result :=
  .next s.unsupported

/-- `UNSUPPORTED_T29` (R132). -/
def execUnsupportedT29 (_f : Bool) (_nri : BitVec 2) (_body : Bytes) (s : State) : Result :=
  .next s.unsupported

/-- `UNSUPPORTED_T30_31` (R132). -/
def execUnsupportedT3031 (_f : Bool) (_nri : BitVec 2) (_t : BitVec 1) (_body : Bytes) (s : State) : Result :=
  .next s.unsupported

/-- `EMPTY_PAYLOAD` (R133): the fragment state and the planner are left alone. -/
def execEmptyPayload (s : State) : Result :=
  .next (s.raise .emptyPayload)

end Sys2Proof.Machine
end

