-- ==== Sys2Proof/Machine/StapA.lean ====
section
/-! DEFINITION. The STAP-A aggregate unpacker (`43_stap_a.md`). -/

namespace Sys2Proof.Machine

/-- The loop of `StapA` (R150), from `OFF` on: `rest` is the bytes of the payload at and after `OFF`, so the test
`OFF < PLEN` is that `rest` is not empty and `PLEN - OFF` is its length. Every turn moves `OFF` on by at least 2, so
`fuel = rest.length` turns are enough (R150). `OFF` has the 17 bits of R20 (log entry 19). -/
def State.stapLoop (fuel : Nat) (rest : Bytes) (s : State) : State :=
  match fuel, rest with
  | 0, _ => s
  | _, [] => s
  | _, [_] => s.raise .stapLengthOverflow
  | n + 1, hi :: lo :: tail =>
    let ulen : BitVec 16 := hi ++ lo
    let s1 := s.setUlen ulen
    if ulen.toNat > tail.length then s1.raise .stapLengthOverflow
    else
      ((s1.emitNal (tail.take ulen.toNat)).countStapa.setOff (s1.w.off + 2 + ulen.setWidth 17)).stapLoop n
        (tail.drop ulen.toNat)

/-- `STAP_A` (R150): abandon an open fragment, then unpack the units from payload offset 1. `F` and `NRI` of the STAP-A
header are ignored (R94). -/
def execStapA (_f : Bool) (_nri : BitVec 2) (units : Bytes) (s : State) : Result :=
  .next ((s.abandonIfActive.setOff 1).stapLoop units.length units)

end Sys2Proof.Machine
end

