-- ==== Sys2Proof/Machine/Rtp.lean ====
section
/-! DEFINITION. The version filter's rows (`40_rtp_header.md` R115) and what an accepted packet does: `AcceptCounters`
(R116), `Observe`, `Classify` (`41_nal_classifier.md` R130). -/

namespace Sys2Proof.Machine

/-- `Classify(PL)` (R130): writes `NTYPE` and runs the row of the payload. -/
def classify (pl : Bytes) (s : State) : Result :=
  let s1 := s.setNtype pl
  nalCases pl (execEmptyPayload s1) (fun f nri t body => execSingleNalT0015 f nri t body s1)
    (fun f nri t body => execSingleNalT1623 f nri t body s1) (fun f nri units => execStapA f nri units s1)
    (fun f nri body => execUnsupportedT25 f nri body s1) (fun f nri t body => execUnsupportedT2627 f nri t body s1)
    (fun f nri body => execFuA f nri body s1) (fun f nri body => execUnsupportedT29 f nri body s1)
    (fun f nri t body => execUnsupportedT3031 f nri t body s1)

/-- The version filter (R115): the status and nothing else. -/
def State.dropVersion (s : State) : State := s.setStatus .versionDropped

/-- `RTP_DROP_V0` (R115). -/
def execRtpDropV0 (_p _x : Bool) (_cc : BitVec 4) (s : State) : Result := .next s.dropVersion

/-- `RTP_DROP_V1` (R115). -/
def execRtpDropV1 (_p _x : Bool) (_cc : BitVec 4) (s : State) : Result := .next s.dropVersion

/-- `RTP_DROP_V3` (R115). -/
def execRtpDropV3 (_p _x : Bool) (_cc : BitVec 4) (s : State) : Result := .next s.dropVersion

/-- `RTP_ACCEPT_V2`: the stages of an accepted packet, in the order of R110, over the header the working registers
hold. -/
def execRtpAcceptV2 (_p _x : Bool) (_cc : BitVec 4) (s : State) : Result :=
  match s.payload? with
  | some pl => andThen (observe s.acceptCounters) (classify pl)
  | none => .fault .readOutsideDatagram

end Sys2Proof.Machine
end

