-- ==== Sys2Proof/Machine/Dgram.lean ====
section
/-! DEFINITION. `DGRAM`, the datagram pipeline (`40_rtp_header.md` R110): one atomic step. -/

namespace Sys2Proof.Machine

/-- The version row of the header in the working registers (R115). -/
def runVersion (s : State) : Result :=
  versionCases s.w.v (execRtpDropV0 s.w.p s.w.x s.w.cc s) (execRtpDropV1 s.w.p s.w.x s.w.cc s)
    (execRtpAcceptV2 s.w.p s.w.x s.w.cc s) (execRtpDropV3 s.w.p s.w.x s.w.cc s)

/-- The pipeline between opening the datagram and `ResultOut`: the stop check (R119), `HeaderDecode` (R112), the
version filter. The first failing check decides the status (`60_exceptions.md` R214). -/
def runDatagram (d : Bytes) (s : State) : Result :=
  if s.stopped then .next (s.setStatus .stopped)
  else match headerDecode s.cfg d with
    | .error st => .next (s.setStatus st)
    | .ok w => runVersion { s with w := w }

/-- `DGRAM` (R110). A datagram of more than 65536 bytes cannot be presented (R187). -/
def execDgram (d : Bytes) (s : State) : Result :=
  if d.length ≤ maxDgramBytes then andThen (runDatagram d (s.openDgram d)) (fun t => .next t.resultOut)
  else .refused (.undecodable .datagramTooLong)

end Sys2Proof.Machine
end

