-- ==== Sys2Proof/Machine/HostCommands.lean ====
section
/-! DEFINITION. Register reads and writes and the refused command kind (`46_host_commands.md`). The actions themselves
are in `Machine/Flags.lean`. -/

namespace Sys2Proof.Machine

/-- `REG_READ` (R180): the value is answered to the host; no register and no stream changes (R66). -/
def execRegRead (off : BitVec 8) (s : State) : Result :=
  if offsetOk off then .next { s with answers := s.answers ++ [s.regValue off] }
  else .refused (.undecodable .badOffset)

/-- `REG_WRITE` (R181). -/
def execRegWrite (off : BitVec 8) (v : Reg64) (s : State) : Result :=
  if offsetOk off then .next (s.regWrite off v) else .refused (.undecodable .badOffset)

/-- `RESERVED_KIND3` (R187): the interface refuses it; the model gives it no step. -/
def execReservedKind3 (_low : BitVec 14) (_s : State) : Result := .refused .reservedKind

/-- `CTRL_STOP` (R183): a `CTRL` write with bit 0 set. -/
def execCtrlStop (v : Reg64) (s : State) : Result := .next (s.writeCtrl v)

/-- `CTRL_SESSION_RESET` (R184): a `CTRL` write with bit 1 set; the other action bits follow it (R30). -/
def execCtrlSessionReset (v : Reg64) (s : State) : Result := .next (s.writeCtrl v)

/-- `CTRL_REPLAY_CLEAR` (R185): a `CTRL` write with bit 2 set; `STOP` follows it (R30). -/
def execCtrlReplayClear (v : Reg64) (s : State) : Result := .next (s.writeCtrl v)

/-- `SC_CFG_WRITE` (R182). -/
def execScCfgWrite (v : Reg64) (s : State) : Result := .next (s.writeScCfg v)

/-- `REPLAY_PUSH_WRITE` (R186). -/
def execReplayPushWrite (v : Reg64) (s : State) : Result := .next (s.replayPush v)

end Sys2Proof.Machine
end

