-- ==== Sys2Proof/Machine/Dispatch.lean ====
section
/-! DEFINITION. One arm per constructor of `Instr`, each one direct call of its meaning. -/

namespace Sys2Proof.Machine

open Sys2Proof

def exec (i : Instr) (s : State) : Host.Outcome State Fault Refusal :=
  match i with
  | .rtpAcceptV2 p x cc => Sys2Proof.Machine.execRtpAcceptV2 p x cc s
  | .rtpDropV0 p x cc => Sys2Proof.Machine.execRtpDropV0 p x cc s
  | .rtpDropV1 p x cc => Sys2Proof.Machine.execRtpDropV1 p x cc s
  | .rtpDropV3 p x cc => Sys2Proof.Machine.execRtpDropV3 p x cc s
  | .singleNalT0015 f nri t body => Sys2Proof.Machine.execSingleNalT0015 f nri t body s
  | .singleNalT1623 f nri t body => Sys2Proof.Machine.execSingleNalT1623 f nri t body s
  | .stapA f nri units => Sys2Proof.Machine.execStapA f nri units s
  | .unsupportedT25 f nri body => Sys2Proof.Machine.execUnsupportedT25 f nri body s
  | .unsupportedT2627 f nri t body => Sys2Proof.Machine.execUnsupportedT2627 f nri t body s
  | .fuA f nri body => Sys2Proof.Machine.execFuA f nri body s
  | .unsupportedT29 f nri body => Sys2Proof.Machine.execUnsupportedT29 f nri body s
  | .unsupportedT3031 f nri t body => Sys2Proof.Machine.execUnsupportedT3031 f nri t body s
  | .emptyPayload => Sys2Proof.Machine.execEmptyPayload s
  | .fuAMiddle f nri r ot frag => Sys2Proof.Machine.execFuAMiddle f nri r ot frag s
  | .fuAEnd f nri r ot frag => Sys2Proof.Machine.execFuAEnd f nri r ot frag s
  | .fuAStart f nri r ot frag => Sys2Proof.Machine.execFuAStart f nri r ot frag s
  | .fuAStartEnd f nri r ot frag => Sys2Proof.Machine.execFuAStartEnd f nri r ot frag s
  | .fuATooShort f nri => Sys2Proof.Machine.execFuATooShort f nri s
  | .seqDuplicate => Sys2Proof.Machine.execSeqDuplicate s
  | .seqInOrder => Sys2Proof.Machine.execSeqInOrder s
  | .seqLost delta => Sys2Proof.Machine.execSeqLost delta s
  | .seqOutOfOrder delta => Sys2Proof.Machine.execSeqOutOfOrder delta s
  | .seqFirst => Sys2Proof.Machine.execSeqFirst s
  | .dgram d => Sys2Proof.Machine.execDgram d s
  | .regRead off => Sys2Proof.Machine.execRegRead off s
  | .regWrite off v => Sys2Proof.Machine.execRegWrite off v s
  | .reservedKind3 low => Sys2Proof.Machine.execReservedKind3 low s
  | .ctrlStop v => Sys2Proof.Machine.execCtrlStop v s
  | .ctrlSessionReset v => Sys2Proof.Machine.execCtrlSessionReset v s
  | .ctrlReplayClear v => Sys2Proof.Machine.execCtrlReplayClear v s
  | .scCfgWrite v => Sys2Proof.Machine.execScCfgWrite v s
  | .replayPushWrite v => Sys2Proof.Machine.execReplayPushWrite v s

end Sys2Proof.Machine
end

