-- ==== Sys2Proof/Machine/Step.lean ====
section
/-! DEFINITION. One step: the host's next input, performed whole (`00_scope.md` R12). -/

namespace Sys2Proof.Machine

/-- One step. The next transaction is decoded and run as one atomic step; `RESET` is performed; a transaction the
interface cannot carry is refused by name and the host's program is stuck there (`46_host_commands.md` R187); with
nothing left to issue the block is idle and keeps all state (`60_exceptions.md` R224; log entry 2). -/
def step (s : State) : Host.Outcome State Fault Refusal :=
  match s.takeInput with
  | none => .next s
  | some (.reset, t) => .next t.hardReset
  | some (.txn x, t) =>
    match decodeTxn x with
    | .ok i => exec i t
    | .error e => .refused (.undecodable e)

/-- `s` with the instruction of a table word placed where the next step runs it (log entry 4). -/
def State.withFetchWord (s : State) (nbits w : Nat) : State := s.placeCode (tableCode nbits w)

end Sys2Proof.Machine
end

