-- ==== Sys2Proof/Machine/HostProgram.lean ====
section
/-! DEFINITION. The notation of host programs (`30_encoding.md` R96) and the pseudo-instructions' expansions (R97), as
functions that build transactions. The host's program is a list of them in `State.inputs`. -/

namespace Sys2Proof.Machine

/-- `DGRAM <bytes>` (R96). -/
def hostDgram (d : Bytes) : HostTxn := dgramTxn d

/-- `WREG <register>, <value>` (R96). -/
def hostWreg (off : BitVec 8) (v : Reg64) : HostTxn := writeTxn off v

/-- `RREG <register>` (R96). -/
def hostRreg (off : BitVec 8) : HostTxn := readTxn off

/-- `STOP` (R97). -/
def hostStop : HostTxn := hostWreg 0x00 0x1

/-- `SRESET` (R97). -/
def hostSreset : HostTxn := hostWreg 0x00 0x2

/-- `RCLEAR` (R97). -/
def hostRclear : HostTxn := hostWreg 0x00 0x4

/-- `PUSH n` (R97). -/
def hostPush : ScLen → HostTxn
  | .three => hostWreg 0x18 3
  | .four => hostWreg 0x18 4

/-- `CFG FIXED3`, `FIXED4`, `REPLAY3`, `REPLAY4` (R97). -/
def hostCfg : ScMode → ScLen → HostTxn
  | .fixed, .three => hostWreg 0x10 0x0
  | .fixed, .four => hostWreg 0x10 0x2
  | .replay, .three => hostWreg 0x10 0x1
  | .replay, .four => hostWreg 0x10 0x3

/-- A 16-bit value, most significant byte first (R61, R97). -/
def be16 (v : BitVec 16) : Bytes := [v.extractLsb' 8 8, v.extractLsb' 0 8]

/-- A 32-bit value, most significant byte first (R61, R97). -/
def be32 (v : BitVec 32) : Bytes :=
  [v.extractLsb' 24 8, v.extractLsb' 16 8, v.extractLsb' 8 8, v.extractLsb' 0 8]

/-- The 12-byte header of the `RTP` pseudo-instruction: `V = 2`, `P = X = 0`, `CC = 0` (R97). -/
def rtpHeader (seq : BitVec 16) (m : Bool) (pt : BitVec 7) (ts ssrc : BitVec 32) : Bytes :=
  [rtpByte0 2#2 false false 0#4, BitVec.ofBool m ++ pt] ++ be16 seq ++ be32 ts ++ be32 ssrc

/-- `RTP seq m pt ts ssrc payload`; the defaults are R97's. -/
def hostRtp (seq : BitVec 16) (payload : Bytes) (m : Bool := false) (pt : BitVec 7 := 96) (ts : BitVec 32 := 0)
    (ssrc : BitVec 32 := 0) : HostTxn :=
  hostDgram (rtpHeader seq m pt ts ssrc ++ payload)

/-- `FUA seq m ind s e ot data` (R97). -/
def hostFua (seq : BitVec 16) (ind : Byte) (start fin : Bool) (ot : BitVec 5) (data : Bytes) (m : Bool := false) :
    HostTxn :=
  hostRtp seq (ind :: fuHeader start fin false ot :: data) m

/-- One STAP-A unit behind its length prefix (R89, R97). -/
def stapUnit (u : Bytes) : Bytes := be16 (BitVec.ofNat 16 u.length) ++ u

/-- `STAPA seq m hdr units` (R97). -/
def hostStapa (seq : BitVec 16) (units : List Bytes) (m : Bool := false) (hdr : Byte := 0x18) : HostTxn :=
  hostRtp seq (hdr :: units.flatMap stapUnit) m

end Sys2Proof.Machine
end

