-- ==== Sys2Proof/Machine/Observe.lean ====
section
/-! DEFINITION. What is observable of the block: the final state of a run (`70_reset_and_hazards.md` R246). -/

namespace Sys2Proof.Machine

/-- The 32 register offsets, 0x00 to 0xF8 in steps of 8 (`10_state.md` R28). -/
def registerOffsets : List (BitVec 8) := (List.range 32).map fun k => BitVec.ofNat 8 (8 * k)

/-- The four parts of the observable final state (R246). -/
structure Observation where
  registers : List Reg64
  /-- the Annex-B byte stream: every record in order, concatenated (`20_memory.md` R63) -/
  stream : Bytes
  results : List ResultRecord
  frag : Frag
  deriving DecidableEq, Repr

/-- The Annex-B byte stream the sink has received (R63). -/
def State.annexB (s : State) : Bytes := s.output.flatten

/-- The observable part of a state (R246). -/
def State.observation (s : State) : Observation where
  registers := registerOffsets.map s.regValue
  stream := s.annexB
  results := s.results
  frag := s.frag

/-- The codes of a result record: status, class, `lost_n`, event codes, `emitted` (R118, R176, R210). -/
def ResultRecord.codes (r : ResultRecord) : Nat × Nat × Nat × List Nat × Nat :=
  (r.status.code, r.seqClass.code, r.lostN, r.events.map Event.code, r.emitted)

end Sys2Proof.Machine
end

