-- ==== Sys2Proof/Machine/Scanner.lean ====
section
/-! DEFINITION. The host-side reference Annex-B scanner (`47_host_annexb_scanner.md`): pure functions of the host,
outside the block (`00_scope.md` R6; log entry 13). -/

namespace Sys2Proof.Machine

/-- The start code at the head of a byte string, the 4-byte one tried first (R200). -/
def startCodeAt (b : Bytes) : Option ScLen :=
  if startCode .four <+: b then some .four
  else if startCode .three <+: b then some .three
  else none

/-- The length of a start code in bytes (R90). -/
def ScLen.bytes : ScLen → Nat
  | .three => 3
  | .four => 4

/-- The loop of `Scan` (R200): `b` is the buffer from position `i` on, `skip` the bytes of a match still to be
passed. -/
def scanFrom (i skip : Nat) (b : Bytes) : List (Nat × ScLen) :=
  match b, skip with
  | [], _ => []
  | _ :: rest, k + 1 => scanFrom (i + 1) k rest
  | x :: rest, 0 =>
    match startCodeAt (x :: rest) with
    | some n => (i, n) :: scanFrom (i + 1) (n.bytes - 1) rest
    | none => scanFrom (i + 1) 0 rest

/-- `Scan(B)` (R200): the matches, left to right. -/
def scan (b : Bytes) : List (Nat × ScLen) := scanFrom 0 0 b

/-- A decoded NAL unit `F`, `NRI`, `TYPE`, `payload` (`30_encoding.md` R85). -/
structure NalUnit where
  f : Bool
  nri : BitVec 2
  type : BitVec 5
  payload : Bytes
  deriving DecidableEq, Repr

/-- A NAL unit from its first byte and the bytes after it (R85, R201). -/
def nalUnit (b : Byte) (payload : Bytes) : NalUnit := ⟨nalF b, nalNri b, nalType b, payload⟩

/-- The bytes of a NAL unit (R85). -/
def nalUnitBytes (u : NalUnit) : Bytes := nalHeader u.f u.nri u.type :: u.payload

/-- What `Units` returns: the NAL units, the start-code lengths, and how many units `SKIP_AND_COUNT` skipped. -/
structure Units where
  nals : List NalUnit
  lens : List ScLen
  skipped : Nat
  deriving DecidableEq, Repr

/-- The byte slice of each match: from the end of its start code to the next match, or to the end (R201). -/
def slices (b : Bytes) : List (Nat × ScLen) → List (ScLen × Bytes)
  | [] => []
  | [(p, n)] => [(n, (b.drop (p + n.bytes)))]
  | (p, n) :: (p', n') :: rest =>
    (n, (b.drop (p + n.bytes)).take (p' - (p + n.bytes))) :: slices b ((p', n') :: rest)

/-- The loop of `Units` over the slices (R201): `none` is the failure `InvalidNAL`. -/
def collectUnits (policy : ScanPolicy) : List (ScLen × Bytes) → Option Units
  | [] => some ⟨[], [], 0⟩
  | (n, []) :: rest => (collectUnits policy rest).map fun u => { u with lens := n :: u.lens }
  | (n, b :: payload) :: rest =>
    if nalF b then
      match policy with
      | .fail => none
      | .skipAndCount =>
        (collectUnits policy rest).map fun u => { u with lens := n :: u.lens, skipped := u.skipped + 1 }
    else
      (collectUnits policy rest).map fun u => { u with nals := nalUnit b payload :: u.nals, lens := n :: u.lens }

/-- `Units(B)` (R201), under `SCAN_FORBIDDEN_POLICY`. -/
def units (c : Config) (b : Bytes) : Option Units := collectUnits c.scanForbidden (slices b (scan b))

end Sys2Proof.Machine
end

