-- ==== Sys2Proof/Safety.lean ====
section
/-! DEFINITION. What holds of every state a run reaches, in the terms the claims use: the conditions the spec states of
the block's registers and streams. `State.Inv` is their conjunction. -/

namespace Sys2Proof.Machine

/-- `D`, the working registers and the open result record are live only inside a `DGRAM` step (`10_state.md` R20,
`20_memory.md` R60; log entries 5, 6). -/
abbrev State.BetweenDatagrams (s : State) : Prop :=
  s.dgram = [] ∧ s.w = Working.idle ∧ s.res = ResultRecord.start

/-- `b` begins with a start code (`30_encoding.md` R90, R91). -/
abbrev StartsWithStartCode (b : Bytes) : Prop :=
  startCode .three <+: b ∨ startCode .four <+: b

/-- The fragment state (`10_state.md` R23): closed, every field is cleared; open, `ACC` begins with a start code and
`FRAG_HDR`, holds no more than `MAX_FRAG_BYTES` bytes (`42_fu_a.md` R144), and `FRAG_OT` is the type of `FRAG_HDR`. -/
abbrev Frag.Ok (c : Config) (f : Frag) : Prop :=
  (f.active = false → f = Frag.idle) ∧
  (f.active = true →
    (startCode .three ++ [f.hdr] <+: f.acc ∨ startCode .four ++ [f.hdr] <+: f.acc) ∧
      f.ot = nalType f.hdr ∧ fragFits c f.acc.length = true)

/-- The start-code plan (`10_state.md` R25): the cursor is inside the list, the list within `REPLAY_CAP`. -/
abbrev Plan.Ok (c : Config) (p : Plan) : Prop :=
  p.cursor ≤ p.list.length ∧ p.list.length ≤ c.replayCap

/-- The `events` lists one datagram can report (`60_exceptions.md` R214). -/
def allowedEvents : List (List Event) :=
  [[], [.abandonedFragment], [.emptyPayload], [.fuTooShort], [.fuContinuationWithoutStart],
   [.unsupportedNalType], [.abandonedFragment, .unsupportedNalType],
   [.stapLengthOverflow], [.abandonedFragment, .stapLengthOverflow],
   [.fragmentOverflow], [.abandonedFragment, .fragmentOverflow]]

/-- A result record (`40_rtp_header.md` R118, R214): a datagram that was not accepted reports its status alone; an
accepted one has a sequence class, `lost_n` is 1 to 32766 exactly when the class is `LOST`, and its events are one of
the allowed lists. -/
abbrev ResultRecord.Ok (r : ResultRecord) : Prop :=
  (r.status ≠ .accepted → r.seqClass = .none ∧ r.lostN = 0 ∧ r.events = [] ∧ r.emitted = 0) ∧
  (r.status = .accepted → r.seqClass ≠ .none) ∧
  (r.seqClass ≠ .lost → r.lostN = 0) ∧
  (r.seqClass = .lost → 1 ≤ r.lostN ∧ r.lostN ≤ 32766) ∧
  r.events ∈ allowedEvents

/-- What every reachable state satisfies. -/
structure State.Inv (s : State) : Prop where
  cfg : s.cfg.wf = true
  between : s.BetweenDatagrams
  frag : s.frag.Ok s.cfg
  plan : s.plan.Ok s.cfg
  results : ∀ r ∈ s.results, r.Ok
  output : ∀ b ∈ s.output, StartsWithStartCode b

/-- The start codes `n` successive `SC()` calls return, and the plan after them (`44_start_code.md` R160). -/
def Plan.take : Nat → Plan → List Bytes × Plan
  | 0, p => ([], p)
  | n + 1, p => ((startCode p.next.1) :: (Plan.take n p.next.2).1, (Plan.take n p.next.2).2)

end Sys2Proof.Machine
end

