-- ==== Sys2Proof/Certificates/Slice0/Obligations.lean ====
section
/-! DEFINITION. The statements for the provers. `Sys2Proof.Claims` holds the words they are written in: the spec's
formulas over natural numbers, sequences of instructions, and datagrams that differ in named fields only. -/

namespace Sys2Proof.Claims

open Sys2Proof.Machine

/-- The byte of `d` at index `i` as a number; used below only where a length check has passed. -/
def byteAt (d : Bytes) (i : Nat) : Nat := (d.getD i 0#8).toNat

/-- `HeaderDecode` in the arithmetic of `30_encoding.md` R84 and the order of checks of `40_rtp_header.md` R113 and
R114: the status, or the payload's offset and length. `EXT_OVERRUN_STATUS` names the status of an extension overrun. -/
def headerFormula (c : Config) (d : Bytes) : Except Status (Nat × Nat) :=
  let len := d.length
  let cc := byteAt d 0 % 16
  let x := byteAt d 0 / 16 % 2
  let p := byteAt d 0 / 32 % 2
  let h0 := 12 + 4 * cc
  let hlen := h0 + x * (4 + 4 * (256 * byteAt d (h0 + 2) + byteAt d (h0 + 3)))
  let pad := byteAt d (len - 1)
  if len < 12 then .error .headerTooShort
  else if x = 1 ∧ len < h0 + 4 then .error .headerTooShort
  else if x = 0 ∧ len < h0 then .error .headerTooShort
  else if len < hlen then
    match c.extOverrun with
    | .headerTooShort => .error .headerTooShort
    | .invalidExtensionLength => .error .invalidExtensionLength
  else if p = 1 ∧ (pad = 0 ∨ pad > len - hlen) then .error .invalidPadding
  else .ok (hlen, len - hlen - p * pad)

/-- Runs instructions one after another, stopping where one does not answer a next state. -/
def runAll (l : List Instr) (s : State) : Result := l.foldl (fun o i => andThen o (exec i)) (.next s)

/-- 1 if an open fragment is discarded, else 0: the errors `AbandonIfActive` counts (`41_nal_classifier.md` R134). -/
def abandonCount (s : State) : Reg64 := if s.frag.active then 1 else 0

/-- The events `AbandonIfActive` raises (R134). -/
def abandonEvents (s : State) : List Event := if s.frag.active then [.abandonedFragment] else []

/-- The fragment state `AbandonIfActive` leaves (R134). -/
def abandonedFrag (s : State) : Frag := if s.frag.active then Frag.idle else s.frag

/-- The datagram with its sequence number, bytes 2 and 3, replaced. -/
def withSeq (q1 q0 : Byte) : Bytes → Bytes
  | b0 :: b1 :: _ :: _ :: rest => b0 :: b1 :: q1 :: q0 :: rest
  | d => d

/-- The datagram with its payload type, timestamp and SSRC replaced (`40_rtp_header.md` R117). -/
def withUnused (pt : BitVec 7) (t3 t2 t1 t0 r3 r2 r1 r0 : Byte) : Bytes → Bytes
  | b0 :: b1 :: q1 :: q0 :: _ :: _ :: _ :: _ :: _ :: _ :: _ :: _ :: rest =>
    b0 :: (BitVec.ofBool (b1.getLsbD 7) ++ pt) :: q1 :: q0 :: t3 :: t2 :: t1 :: t0 :: r3 :: r2 :: r1 :: r0 :: rest
  | d => d

/-- What the sequence number may not touch (`45_sequence.md` R177): the fragment, the planner, the stop flag, the
output, the counters other than the three sequence counters, and each result but for its class and `lost_n`. -/
def sequenceBlind (s : State) : Frag × Plan × Bool × List Bytes × List Reg64 × List (Status × List Event × Nat) :=
  (s.frag, s.plan, s.stopped, s.output,
   [s.ctr.packets, s.ctr.payloadBytes, s.ctr.nalUnits, s.ctr.markers, s.ctr.fuaComplete, s.ctr.stapaUnits,
    s.ctr.decodeErrors],
   s.results.map fun r => (r.status, r.events, r.emitted))

/-- A single-NAL instruction's payload bytes; `none` for any other instruction. -/
def singleNalBytes : Instr → Option Bytes
  | .singleNalT0015 f nri t body => some (nalHeader f nri (0#1 ++ t) :: body)
  | .singleNalT1623 f nri t body => some (nalHeader f nri (2#2 ++ t) :: body)
  | _ => none

/-- The FU-A operands of an indicator `F NRI 28` and an FU header `S E r OT` (`30_encoding.md` R87, R88), over the
other working registers. -/
def fuOperands (f : Bool) (nri : BitVec 2) (start fin r : Bool) (ot : BitVec 5) (w : Working) : Working :=
  { w with
    fui := nalHeader f nri 28#5
    fuh := fuHeader start fin r ot
    s := start
    e := fin
    ot := ot
    rhdr := nalHeader f nri ot }

/-- One FU-A packet's `F`, `NRI`, ignored bit 5, `OT` and fragment bytes (`30_encoding.md` R87). -/
structure FuPiece where
  f : Bool
  nri : BitVec 2
  r : Bool
  ot : BitVec 5
  frag : Bytes

/-- The rows of a unit sent as a start fragment, middle fragments and an end fragment (`42_fu_a.md` R145). -/
def fuRows (first : FuPiece) (middles : List FuPiece) (last : FuPiece) : List Instr :=
  .fuAStart first.f first.nri first.r first.ot first.frag ::
    (middles.map (fun p => .fuAMiddle p.f p.nri p.r p.ot p.frag) ++ [.fuAEnd last.f last.nri last.r last.ot last.frag])

/-- The unit those rows carry: the start fragment's rebuilt header, then every fragment's bytes (R91). -/
def fuUnit (first : FuPiece) (middles : List FuPiece) (last : FuPiece) : Bytes :=
  nalHeader first.f first.nri first.ot :: (first.frag ++ middles.flatMap FuPiece.frag ++ last.frag)

/-- The packets that carry whole NAL units, one `SC()` call each unit (`44_start_code.md` R162): a single NAL unit, an
aggregate with nothing after its last unit, an FU-A unit in one packet, an FU-A unit in several. -/
inductive Carrier where
  | singleLow (f : Bool) (nri : BitVec 2) (t : BitVec 4) (body : Bytes)
  | singleHigh (f : Bool) (nri : BitVec 2) (t : BitVec 3) (body : Bytes)
  | aggregate (f : Bool) (nri : BitVec 2) (units : List Bytes)
  | whole (p : FuPiece)
  | fragments (first : FuPiece) (middles : List FuPiece) (last : FuPiece)

/-- The rows a carrier's packets decode to. -/
def Carrier.rows : Carrier → List Instr
  | .singleLow f nri t body => [.singleNalT0015 f nri t body]
  | .singleHigh f nri t body => [.singleNalT1623 f nri t body]
  | .aggregate f nri units => [.stapA f nri (units.flatMap stapUnit)]
  | .whole p => [.fuAStartEnd p.f p.nri p.r p.ot p.frag]
  | .fragments first middles last => fuRows first middles last

/-- The NAL units a carrier brings, in order. -/
def Carrier.units : Carrier → List Bytes
  | .singleLow f nri t body => [nalHeader f nri (0#1 ++ t) :: body]
  | .singleHigh f nri t body => [nalHeader f nri (2#2 ++ t) :: body]
  | .aggregate _ _ units => units
  | .whole p => [nalHeader p.f p.nri p.ot :: p.frag]
  | .fragments first middles last => [fuUnit first middles last]

/-- An aggregate's units fit their 16-bit length prefixes (`30_encoding.md` R89). -/
def Carrier.Ok : Carrier → Prop
  | .aggregate _ _ units => ∀ u ∈ units, u.length ≤ 65535
  | _ => True

/-- A NAL unit's bytes that no scan can cut (`47_host_annexb_scanner.md` R202): not empty, forbidden bit 0, no start
code inside, and not ending in `00`. -/
def CleanUnit (u : Bytes) : Prop :=
  (∃ b rest, u = b :: rest ∧ nalF b = false) ∧ u.getLast? ≠ some 0#8 ∧ ¬ startCode .three <:+: u

/-- The transaction at the head of the input port is a `CTRL` write with bit `k` of its value set. -/
def IsCtrlWrite (s : State) (k : Nat) : Prop :=
  ∃ v rest, s.inputs = .txn (writeTxn 0x00#8 v) :: rest ∧ v.getLsbD k = true

/-- The head of the input port is `RESET`. -/
def IsReset (s : State) : Prop := ∃ rest, s.inputs = .reset :: rest

/-- The head of the input port is a `DGRAM` transaction. -/
def IsDgram (s : State) : Prop := ∃ d rest, s.inputs = .txn (dgramTxn d) :: rest

/-- The head of the input port is a `REG_READ` that shows what the tracker keeps: of `STATUS`, which holds `SEQ_VALID`
and `SEQ_LAST`, or of `LOST`, `OUT_OF_ORDER` or `DUPLICATE` (`10_state.md` R28, R31, R36). -/
def IsTrackerRead (s : State) : Prop :=
  ∃ off rest, s.inputs = .txn (readTxn off) :: rest ∧ off ∈ [0x08#8, 0x58#8, 0x60#8, 0x68#8]

/-- The same input, or the same datagram but for its sequence number. -/
def SameButSequence (a b : HostInput) : Prop :=
  b = a ∨ ∃ d q1 q0, a = .txn (dgramTxn d) ∧ b = .txn (dgramTxn (withSeq q1 q0 d))

/-- Two blocks that may differ in what the tracker keeps and in the sequence numbers of the datagrams to come. -/
structure AgreeButSequence (s s' : State) : Prop where
  cfg : s'.cfg = s.cfg
  blind : sequenceBlind s' = sequenceBlind s
  inputs : List.Forall₂ SameButSequence s.inputs s'.inputs

end Sys2Proof.Claims

open Sys2Proof Sys2Proof.Machine Sys2Proof.Claims

/-! ## Encoding -/

/-- Every well-formed instruction of every row is read back from its coded form (`30_encoding.md`; decisions D2, D3; log
entries 1, 10, 12). -/
def Obligations.EncodedInstructionDecodesBack : Prop :=
  ∀ i : Instr, i.wellFormed = true → decodeCode (encode i) = .ok i

/-- Whatever the decoders are given, what they answer is well formed (decisions D3, D32; log entry 10). -/
def Obligations.DecodersAnswerWellFormed : Prop :=
  ∀ (c : Code) (i : Instr), decodeCode c = .ok i → i.wellFormed = true

/-- No decoder drops a bit of what it is given, except the data after a refused command word of `KIND = 3`, whose 14 low
bits are kept (decisions D3, D32; log entries 1, 9, 10). -/
def Obligations.DecodingLosesNoBit : Prop :=
  ∀ (c : Code) (i : Instr), decodeCode c = .ok i →
    encode i = c ∨ ∃ low data, i = .reservedKind3 low ∧ c = .host ⟨3#2 ++ low, data⟩

/-- The NAL header byte (R85): bit 7 is `F`, bits 6:5 are `NRI`, bits 4:0 are `TYPE`, and the byte built of the three
has them there. -/
def Obligations.NalHeaderByteLayout : Prop :=
  (∀ b : Byte, nalF b = decide (b.toNat / 128 = 1) ∧ (nalNri b).toNat = b.toNat / 32 % 4 ∧
    (nalType b).toNat = b.toNat % 32 ∧ nalHeader (nalF b) (nalNri b) (nalType b) = b) ∧
  ∀ (f : Bool) (nri : BitVec 2) (t : BitVec 5),
    (nalHeader f nri t).toNat = 128 * f.toNat + 32 * nri.toNat + t.toNat

/-- Words written out from the formats: an RTP byte 0, payloads of types 5, 24, 28, FU headers, a delta, command
words (R80, R85, R87, R92; decisions D3, D13; log entries 1, 12). -/
def Obligations.SampleWordsDecode : Prop :=
  decodeCode (.versionByte 0xB2#8) = .ok (.rtpAcceptV2 true true 2#4) ∧
  decodeCode (.payload [0x65#8, 0x88#8]) = .ok (.singleNalT0015 false 3#2 5#4 [0x88#8]) ∧
  decodeCode (.payload [0x18#8, 0x00#8, 0x00#8]) = .ok (.stapA false 0#2 [0x00#8, 0x00#8]) ∧
  decodeCode (.fuPayload [0x5C#8, 0x85#8, 0x41#8]) = .ok (.fuAStart false 2#2 false 5#5 [0x41#8]) ∧
  decodeCode (.sequence (some 0x8000#16)) = .ok (.seqOutOfOrder 0x8000#16) ∧
  decodeCode (.host ⟨0x4040#16, .none⟩) = .ok (.regRead 0x40#8) ∧
  decodeCode (.host ⟨0x8018#16, .value 4⟩) = .ok (.replayPushWrite 4)

/-! ## One step -/

/-- A step performs the next input: nothing left, the block idles (log entry 2); `RESET` (decision D26;
log entry 17); a transaction that decodes is run by `exec` with the transaction taken off the port; one that does not is
refused (decision D32). -/
def Obligations.StepRunsDecodedInstruction : Prop :=
  ∀ s : State,
    (s.inputs = [] → step s = .next s) ∧
    (∀ rest, s.inputs = .reset :: rest → step s = .next { State.reset with cfg := s.cfg, inputs := rest }) ∧
    (∀ x rest i, s.inputs = .txn x :: rest → decodeTxn x = .ok i → step s = exec i { s with inputs := rest }) ∧
    (∀ x rest e, s.inputs = .txn x :: rest → decodeTxn x = .error e → step s = .refused (.undecodable e))

/-- The command words and offsets that spell no transaction are refused, and the machine takes no step
(`46_host_commands.md` R187, decision D32). -/
def Obligations.RefusedTransactionsTakeNoStep : Prop :=
  ∀ (s : State) (x : HostTxn) (rest : List HostInput), s.inputs = .txn x :: rest →
    (x.cw.toNat / 16384 = 3 ∨ x.cw.toNat / 256 % 64 ≠ 0 ∨
      (x.cw.toNat / 16384 = 0 ∧ x.cw.toNat % 256 ≠ 0) ∨
      (x.cw.toNat / 16384 = 0 ∧ ∃ len bytes, x.data = .datagram len bytes ∧ len.toNat > 65536) ∨
      (x.cw.toNat / 16384 ≠ 0 ∧ x.cw.toNat % 8 ≠ 0)) →
    ∃ r, step s = .refused r

/-- `RESERVED_KIND3` is refused in every state; so are an over-long datagram and a misaligned register offset
(`46_host_commands.md` R187, decision D32). -/
def Obligations.ReservedKindIsRefused : Prop :=
  (∀ (low : BitVec 14) (s : State), exec (.reservedKind3 low) s = .refused .reservedKind) ∧
  (∀ (d : Bytes) (s : State), 65536 < d.length → exec (.dgram d) s = .refused (.undecodable .datagramTooLong)) ∧
  (∀ (off : BitVec 8) (v : Reg64) (s : State), off.toNat % 8 ≠ 0 →
    exec (.regRead off) s = .refused (.undecodable .badOffset) ∧
    exec (.regWrite off v) s = .refused (.undecodable .badOffset))

/-! ## The sequence tracker -/

/-- `Observe` (R170 to R175): with no `SEQ_LAST` the first packet is in order and no counter is touched; otherwise
`delta = (SEQ - SEQ_LAST) mod 65536` selects the row, the row counts, and `SEQ_LAST` follows every packet. Nothing else
changes. -/
def Obligations.TrackerClassifiesByModularDelta : Prop :=
  ∀ s : State,
    let delta := (s.w.seq.toNat + 65536 - s.seq.last.toNat) % 65536
    let row := decodeSequence s.seqDelta
    let after (ctr : Counters) (cls : SeqClass) (n : Nat) : State :=
      { s with ctr := ctr, seq := ⟨true, s.w.seq⟩, res := { s.res with seqClass := cls, lostN := n } }
    (s.seq.valid = false → row = .seqFirst ∧ exec row s = .next (after s.ctr .inOrder 0)) ∧
    (s.seq.valid = true → delta = 0 → row = .seqDuplicate ∧
      exec row s = .next (after { s.ctr with duplicate := s.ctr.duplicate + 1 } .duplicate 0)) ∧
    (s.seq.valid = true → delta = 1 → row = .seqInOrder ∧ exec row s = .next (after s.ctr .inOrder 0)) ∧
    (s.seq.valid = true → 2 ≤ delta → delta ≤ 32767 → row = .seqLost (BitVec.ofNat 16 delta) ∧
      exec row s = .next
        (after { s.ctr with lost := s.ctr.lost + BitVec.ofNat 64 (delta - 1) } .lost (delta - 1))) ∧
    (s.seq.valid = true → 32768 ≤ delta → row = .seqOutOfOrder (BitVec.ofNat 16 delta) ∧
      exec row s = .next (after { s.ctr with outOfOrder := s.ctr.outOfOrder + 1 } .outOfOrder 0))

/-- Each of the five sequence rows completes in every state, and only the row's own counter, the sequence state and the
record's class and `lost_n` change (R170 to R175; decision D22; what a row does in a state no datagram reaches: log
entry 3). -/
def Obligations.SequenceRowsComplete : Prop :=
  ∀ (s : State) (delta : BitVec 16),
    let after (ctr : Counters) (valid : Bool) (cls : SeqClass) (n : Nat) : State :=
      { s with ctr := ctr, seq := ⟨valid, s.w.seq⟩, res := { s.res with seqClass := cls, lostN := n } }
    exec .seqFirst s = .next (after s.ctr true .inOrder 0) ∧
    exec .seqInOrder s = .next (after s.ctr s.seq.valid .inOrder 0) ∧
    (∃ k, exec .seqDuplicate s = .next (after { s.ctr with duplicate := k } s.seq.valid .duplicate 0) ∧
      k.toNat = (s.ctr.duplicate.toNat + 1) % 2 ^ 64) ∧
    (2 ≤ delta.toNat → delta.toNat ≤ 32767 →
      ∃ k, exec (.seqLost delta) s = .next (after { s.ctr with lost := k } s.seq.valid .lost (delta.toNat - 1)) ∧
        k.toNat = (s.ctr.lost.toNat + (delta.toNat - 1)) % 2 ^ 64) ∧
    (32768 ≤ delta.toNat →
      ∃ k, exec (.seqOutOfOrder delta) s = .next (after { s.ctr with outOfOrder := k } s.seq.valid .outOfOrder 0) ∧
        k.toNat = (s.ctr.outOfOrder.toNat + 1) % 2 ^ 64)

/-- The sequence number and the tracker's results never reach the classifier, the fragment or the planner
(`45_sequence.md` R177, decision D39): two blocks that agree on everything else still do after a datagram whose sequence
number differs. The conclusion is the premise again, so it holds over any number of datagrams; for inputs of
every kind see `SequenceNumbersSteerNoStep`. -/
def Obligations.SequenceNeverReachesOutput : Prop :=
  ∀ (s s' t : State) (d : Bytes) (q1 q0 : Byte),
    s'.cfg = s.cfg → sequenceBlind s' = sequenceBlind s → exec (.dgram d) s = .next t →
    ∃ t', exec (.dgram (withSeq q1 q0 d)) s' = .next t' ∧ t'.cfg = t.cfg ∧ sequenceBlind t' = sequenceBlind t

/-! ## The RTP header and the datagram -/

/-- `HeaderDecode` gives the status, or the payload bounds, of the formulas of R84 under the checks of R113 and R114,
for every datagram that can be presented (decisions D7, D8, D44; log entries 12, 19). -/
def Obligations.HeaderDecodeMatchesFormula : Prop :=
  ∀ (c : Config) (d : Bytes), d.length ≤ 65536 →
    (headerDecode c d).map (fun w => (w.poff.toNat, w.plen.toNat)) = headerFormula c d

/-- The fixed-header fields of a header that decodes, by byte and place value (R80, R111; decision D44; log entries
12, 19). -/
def Obligations.HeaderFieldsUnpack : Prop :=
  ∀ (c : Config) (d : Bytes) (w : Working), d.length ≤ 65536 → headerDecode c d = .ok w →
    w.v.toNat = byteAt d 0 / 64 ∧ w.p = decide (byteAt d 0 / 32 % 2 = 1) ∧ w.x = decide (byteAt d 0 / 16 % 2 = 1) ∧
    w.cc.toNat = byteAt d 0 % 16 ∧ w.m = decide (byteAt d 1 / 128 = 1) ∧ w.pt.toNat = byteAt d 1 % 128 ∧
    w.seq.toNat = 256 * byteAt d 2 + byteAt d 3 ∧
    w.ts.toNat = 16777216 * byteAt d 4 + 65536 * byteAt d 5 + 256 * byteAt d 6 + byteAt d 7 ∧
    w.ssrc.toNat = 16777216 * byteAt d 8 + 65536 * byteAt d 9 + 256 * byteAt d 10 + byteAt d 11 ∧
    w.hlen.toNat = w.poff.toNat ∧ w.poff.toNat + w.plen.toNat ≤ d.length ∧ 12 ≤ w.poff.toNat

/-- A stopped block, a header that does not decode and a version other than 2 each add one result record and change
nothing else (R115, R119, R211; decisions D5, D6, D27, D43). Between datagrams the working registers, `D` and the open
record are idle, before and after (log entries 5, 6). -/
def Obligations.RejectedDatagramChangesNothing : Prop :=
  ∀ (s : State) (d : Bytes), s.BetweenDatagrams → d.length ≤ 65536 →
    let after (st : Status) : State := { s with results := s.results ++ [⟨st, .none, 0, [], 0⟩] }
    (s.stopped = true → exec (.dgram d) s = .next (after .stopped)) ∧
    (s.stopped = false → ∀ st, headerDecode s.cfg d = .error st → exec (.dgram d) s = .next (after st)) ∧
    (s.stopped = false → ∀ w, headerDecode s.cfg d = .ok w → byteAt d 0 / 64 ≠ 2 →
      exec (.dgram d) s = .next (after .versionDropped))

/-- The three version rows set the status and change nothing else; byte `D[0]` with version 2 goes to the accepting
row (R115; log entries 3, 12). -/
def Obligations.OtherVersionsDropped : Prop :=
  ∀ (s : State) (p x : Bool) (cc : BitVec 4) (b : Byte),
    let after : State := { s with res := { s.res with status := .versionDropped } }
    exec (.rtpDropV0 p x cc) s = .next after ∧ exec (.rtpDropV1 p x cc) s = .next after ∧
    exec (.rtpDropV3 p x cc) s = .next after ∧
    (b.toNat / 64 ≠ 2 → exec (decodeVersion b) s = .next after) ∧
    (b.toNat / 64 = 2 → ∃ p' x' cc', decodeVersion b = .rtpAcceptV2 p' x' cc')

/-- Every datagram of at most 65536 bytes completes in every state, with one result record; the records it emits are
counted in `emitted` and `NAL_UNITS`, its events in `DECODE_ERRORS`; the parameters, the port, the stop flag and the
answers stay (R64, R110, R212, R216, R26; decisions D5, D12, D21, D22, D43; log entries 5, 6). No
datagram stalls, because the streams are unbounded (R240, decision D31; log entry 11). -/
def Obligations.EveryDatagramCompletes : Prop :=
  ∀ (s : State) (d : Bytes), d.length ≤ 65536 →
    ∃ (t : State) (r : ResultRecord) (recs : List Bytes), exec (.dgram d) s = .next t ∧
      t.results = s.results ++ [r] ∧ t.output = s.output ++ recs ∧ recs.length = r.emitted ∧
      t.ctr.nalUnits = s.ctr.nalUnits + BitVec.ofNat 64 r.emitted ∧
      t.ctr.decodeErrors = s.ctr.decodeErrors + BitVec.ofNat 64 r.events.length ∧
      r.Ok ∧ t.BetweenDatagrams ∧
      t.cfg = s.cfg ∧ t.inputs = s.inputs ∧ t.stopped = s.stopped ∧ t.answers = s.answers ∧
      t.plan.mode = s.plan.mode ∧ t.plan.len = s.plan.len ∧ t.plan.list = s.plan.list

/-- A datagram whose header decodes is run by the instruction its first byte decodes to, and an accepted packet by the
instructions its sequence number and its payload decode to, in that order (R110, R130; log entry 3). -/
def Obligations.DatagramRunsDecodedRows : Prop :=
  (∀ (s : State) (d : Bytes) (w : Working), d.length ≤ 65536 → s.stopped = false → headerDecode s.cfg d = .ok w →
    exec (.dgram d) s =
      andThen (exec (decodeVersion (d.headD 0#8)) { s.openDgram d with w := w }) (fun t => .next t.resultOut)) ∧
  (∀ (s : State) (p x : Bool) (cc : BitVec 4) (pl : Bytes), s.payload? = some pl →
    exec (.rtpAcceptV2 p x cc) s =
      andThen (exec (decodeSequence s.acceptCounters.seqDelta) s.acceptCounters)
        (fun t => exec (decodePayload pl) (t.setNtype pl)))

/-- `RTP_ACCEPT_V2` completes wherever `POFF` and `PLEN` lie inside `D`: the packet, its payload bytes and its marker
are counted, `SEQ_LAST` is the packet's number; what belongs to the host and the streams' past stay (R116;
decisions D9, D22; log entry 3).
Elsewhere the bytes do not exist and the machine stops (log entry 16). -/
def Obligations.AcceptedPacketIsCounted : Prop :=
  ∀ (s : State) (p x : Bool) (cc : BitVec 4),
    (s.w.poff.toNat + s.w.plen.toNat ≤ s.dgram.length →
      ∃ t, exec (.rtpAcceptV2 p x cc) s = .next t ∧
        t.ctr.packets.toNat = (s.ctr.packets.toNat + 1) % 2 ^ 64 ∧
        t.ctr.payloadBytes.toNat = (s.ctr.payloadBytes.toNat + s.w.plen.toNat) % 2 ^ 64 ∧
        t.ctr.markers.toNat = (s.ctr.markers.toNat + if s.w.m then 1 else 0) % 2 ^ 64 ∧
        t.seq = ⟨true, s.w.seq⟩ ∧ t.res.status = s.res.status ∧
        t.cfg = s.cfg ∧ t.inputs = s.inputs ∧ t.stopped = s.stopped ∧ t.results = s.results ∧
        t.answers = s.answers ∧ t.dgram = s.dgram ∧ s.output <+: t.output) ∧
    (s.dgram.length < s.w.poff.toNat + s.w.plen.toNat → exec (.rtpAcceptV2 p x cc) s = .fault .readOutsideDatagram)

/-- Payload type, timestamp and SSRC have no effect on anything (R117, decision D38). -/
def Obligations.UnusedHeaderFieldsIgnored : Prop :=
  ∀ (s : State) (d : Bytes) (pt : BitVec 7) (t3 t2 t1 t0 r3 r2 r1 r0 : Byte),
    exec (.dgram (withUnused pt t3 t2 t1 t0 r3 r2 r1 r0 d)) s = exec (.dgram d) s

/-! ## The classifier -/

/-- `Classify` (R130): the empty payload has no type; otherwise the low five bits of the first byte, and nothing else,
select the row, which runs with `NTYPE` written. -/
def Obligations.ClassifierDispatchesOnType : Prop :=
  (∀ s : State, classify [] s = exec .emptyPayload s) ∧
  ∀ (s : State) (b : Byte) (body : Bytes),
    let n := b.toNat % 32
    let f := nalF b
    let nri := nalNri b
    ∃ i, classify (b :: body) s = exec i { s with w := { s.w with ntype := BitVec.ofNat 5 n } } ∧
      (n < 16 → i = .singleNalT0015 f nri (BitVec.ofNat 4 n) body) ∧
      (16 ≤ n → n < 24 → i = .singleNalT1623 f nri (BitVec.ofNat 3 (n - 16)) body) ∧
      (n = 24 → i = .stapA f nri body) ∧
      (n = 25 → i = .unsupportedT25 f nri body) ∧
      (26 ≤ n → n ≤ 27 → i = .unsupportedT2627 f nri (BitVec.ofNat 1 (n - 26)) body) ∧
      (n = 28 → i = .fuA f nri body) ∧
      (n = 29 → i = .unsupportedT29 f nri body) ∧
      (30 ≤ n → i = .unsupportedT3031 f nri (BitVec.ofNat 1 (n - 30)) body)

/-- `raise` (R212): one error is counted, the event is appended to the record's list, and nothing else changes. -/
def Obligations.RaiseCountsAndRecords : Prop :=
  ∀ (ev : Event) (s : State), s.raise ev =
    { s with
      ctr := { s.ctr with decodeErrors := s.ctr.decodeErrors + 1 }
      res := { s.res with events := s.res.events ++ [ev] } }

/-- `AbandonIfActive` (R134): an open fragment is discarded, with one event and one error; else nothing happens. -/
def Obligations.AbandonDiscardsOpenFragment : Prop :=
  ∀ s : State,
    (s.frag.active = true → s.abandonIfActive =
      { s with
        frag := ⟨false, 0#5, 0#8, []⟩
        ctr := { s.ctr with decodeErrors := s.ctr.decodeErrors + 1 }
        res := { s.res with events := s.res.events ++ [.abandonedFragment] } }) ∧
    (s.frag.active = false → s.abandonIfActive = s)

/-- The two single-NAL rows complete in every state: the whole payload, header byte with `F` and all, is emitted behind
the next start code; an open fragment is abandoned; nothing else changes (R131; `F` unchecked: decision D37). -/
def Obligations.SingleNalEmitsWholePayload : Prop :=
  ∀ (i : Instr) (pl : Bytes) (s : State), singleNalBytes i = some pl →
    exec i s = .next { s with
      output := s.output ++ [s.nextStartCode ++ pl]
      plan := s.plan.next.2
      frag := abandonedFrag s
      ctr := { s.ctr with
        nalUnits := s.ctr.nalUnits + 1
        decodeErrors := s.ctr.decodeErrors + abandonCount s }
      res := { s.res with events := s.res.events ++ abandonEvents s, emitted := s.res.emitted + 1 } }

/-- The four unsupported rows complete in every state: nothing is emitted and no start code is taken; an open fragment
is abandoned first (R132; decisions D11, D12). -/
def Obligations.UnsupportedTypesEmitNothing : Prop :=
  ∀ (s : State) (f : Bool) (nri : BitVec 2) (t : BitVec 1) (body : Bytes),
    let after : State := { s with
      frag := abandonedFrag s
      ctr := { s.ctr with decodeErrors := s.ctr.decodeErrors + abandonCount s + 1 }
      res := { s.res with events := s.res.events ++ abandonEvents s ++ [.unsupportedNalType] } }
    exec (.unsupportedT25 f nri body) s = .next after ∧ exec (.unsupportedT2627 f nri t body) s = .next after ∧
    exec (.unsupportedT29 f nri body) s = .next after ∧ exec (.unsupportedT3031 f nri t body) s = .next after

/-- The empty payload and the one-byte FU-A payload complete in every state: one event, one error, an open fragment
stays open (R133, R140; decisions D10, D16). -/
def Obligations.EmptyAndShortPayloadsKeepFragment : Prop :=
  ∀ (s : State) (f : Bool) (nri : BitVec 2),
    let after (ev : Event) : State := { s with
      ctr := { s.ctr with decodeErrors := s.ctr.decodeErrors + 1 }
      res := { s.res with events := s.res.events ++ [ev] } }
    exec .emptyPayload s = .next (after .emptyPayload) ∧ exec (.fuATooShort f nri) s = .next (after .fuTooShort) ∧
    exec (.fuA f nri []) s = .next (after .fuTooShort)

/-- Every payload whose type is not 28 leaves no fragment open (R135 (a), derived there; decision D11). -/
def Obligations.OtherTypesCloseFragment : Prop :=
  ∀ (s : State) (b : Byte) (body : Bytes), b.toNat % 32 ≠ 28 →
    ∃ t, exec (decodePayload (b :: body)) s = .next t ∧ t.frag.active = false

/-! ## STAP-A -/

/-- `STAP_A` completes in every state on every byte string: the bytes are whole units and a tail; each unit is emitted
in order behind the next start code and counted; a tail that is not empty (one byte, or a length prefix that overruns)
raises one event and emits nothing; an open fragment is abandoned first (R150, R151; decisions D11 to D15). `OFF` is left
after the last whole unit (its width: log entry 19). -/
def Obligations.StapAEmitsEveryWholeUnit : Prop :=
  ∀ (s : State) (f : Bool) (nri : BitVec 2) (b : Bytes),
    ∃ (us : List Bytes) (tail : Bytes) (t : State), exec (.stapA f nri b) s = .next t ∧
      b = us.flatMap stapUnit ++ tail ∧ (∀ u ∈ us, u.length ≤ 65535) ∧
      (tail = [] ∨ tail.length = 1 ∨ ∃ hi lo rest, tail = hi :: lo :: rest ∧ rest.length < 256 * hi.toNat + lo.toNat) ∧
      t = { s with
        output := s.output ++ List.zipWith (· ++ ·) (Plan.take us.length s.plan).1 us
        plan := (Plan.take us.length s.plan).2
        frag := abandonedFrag s
        ctr := { s.ctr with
          nalUnits := s.ctr.nalUnits + BitVec.ofNat 64 us.length
          stapaUnits := s.ctr.stapaUnits + BitVec.ofNat 64 us.length
          decodeErrors := s.ctr.decodeErrors + abandonCount s + if tail = [] then 0 else 1 }
        res := { s.res with
          events := s.res.events ++ abandonEvents s ++ if tail = [] then [] else [.stapLengthOverflow]
          emitted := s.res.emitted + us.length }
        w := { s.w with off := BitVec.ofNat 17 (1 + (us.flatMap stapUnit).length), ulen := t.w.ulen } }

/-! ## FU-A -/

/-- The rebuilt header keeps `F` and `NRI` of the indicator and takes the original type (R88). -/
def Obligations.RebuiltHeaderKeepsIndicatorBits : Prop :=
  ∀ (fui : Byte) (ot : BitVec 5),
    nalF (rebuiltHeader fui ot) = nalF fui ∧ nalNri (rebuiltHeader fui ot) = nalNri fui ∧
    nalType (rebuiltHeader fui ot) = ot

/-- `FU_A_START` (R141), where the buffer fits: an open buffer is discarded and counted as an error; a start code is
taken from the planner; the new buffer is the start code, the rebuilt header and the fragment bytes. Nothing is emitted
and nothing else changes (the bound: decision D19). -/
def Obligations.FuStartOpensBuffer : Prop :=
  ∀ (s : State) (f : Bool) (nri : BitVec 2) (r : Bool) (ot : BitVec 5) (frag : Bytes),
    let hdr := nalHeader f nri ot
    let seed := s.nextStartCode ++ hdr :: frag
    fragFits s.cfg seed.length = true → exec (.fuAStart f nri r ot frag) s = .next { s with
      frag := ⟨true, ot, hdr, seed⟩
      plan := s.plan.next.2
      ctr := { s.ctr with decodeErrors := s.ctr.decodeErrors + abandonCount s }
      res := { s.res with events := s.res.events ++ abandonEvents s }
      w := fuOperands f nri true false r ot s.w }

/-- `FU_A_START_END` (R141, R143; decision D17), where the buffer fits: the unit is emitted at once and no fragment is
open. -/
def Obligations.FuStartEndEmitsAtOnce : Prop :=
  ∀ (s : State) (f : Bool) (nri : BitVec 2) (r : Bool) (ot : BitVec 5) (frag : Bytes),
    let seed := s.nextStartCode ++ nalHeader f nri ot :: frag
    fragFits s.cfg seed.length = true → exec (.fuAStartEnd f nri r ot frag) s = .next { s with
      frag := Frag.idle
      output := s.output ++ [seed]
      plan := s.plan.next.2
      ctr := { s.ctr with
        nalUnits := s.ctr.nalUnits + 1
        fuaComplete := s.ctr.fuaComplete + 1
        decodeErrors := s.ctr.decodeErrors + abandonCount s }
      res := { s.res with events := s.res.events ++ abandonEvents s, emitted := s.res.emitted + 1 }
      w := fuOperands f nri true true r ot s.w }

/-- A start fragment whose buffer a finite `MAX_FRAG_BYTES` cannot hold (R144, decision D19): the overflow is counted,
the start code stays taken, no fragment is open and nothing is emitted, whatever the end bit. -/
def Obligations.OversizedStartStaysIdle : Prop :=
  ∀ (s : State) (f : Bool) (nri : BitVec 2) (r : Bool) (ot : BitVec 5) (frag : Bytes),
    let after (w : Working) : State := { s with
      frag := abandonedFrag s
      plan := s.plan.next.2
      ctr := { s.ctr with decodeErrors := s.ctr.decodeErrors + abandonCount s + 1 }
      res := { s.res with events := s.res.events ++ abandonEvents s ++ [.fragmentOverflow] }
      w := w }
    fragFits s.cfg (s.nextStartCode ++ nalHeader f nri ot :: frag).length = false →
      (abandonedFrag s).active = false ∧
      exec (.fuAStart f nri r ot frag) s = .next (after (fuOperands f nri true false r ot s.w)) ∧
      exec (.fuAStartEnd f nri r ot frag) s = .next (after (fuOperands f nri true true r ot s.w))

/-- `FU_A_MIDDLE` and `FU_A_END` complete in every state. With no buffer open they are skipped and counted; with one
open the fragment bytes are appended without any check of type, `F` or `NRI`, and the end fragment emits the buffer and
closes it; a finite `MAX_FRAG_BYTES` that the bytes do not fit closes it unsent (R142, R143, R144; decisions D18,
D19). -/
def Obligations.FuContinuationAppendsAndEnds : Prop :=
  ∀ (s : State) (f : Bool) (nri : BitVec 2) (r : Bool) (ot : BitVec 5) (frag : Bytes),
    let acc := s.frag.acc ++ frag
    let wm := fuOperands f nri false false r ot s.w
    let we := fuOperands f nri false true r ot s.w
    let failed (ev : Event) (fr : Frag) (w : Working) : State := { s with
      frag := fr
      ctr := { s.ctr with decodeErrors := s.ctr.decodeErrors + 1 }
      res := { s.res with events := s.res.events ++ [ev] }
      w := w }
    (s.frag.active = false →
      exec (.fuAMiddle f nri r ot frag) s = .next (failed .fuContinuationWithoutStart s.frag wm) ∧
      exec (.fuAEnd f nri r ot frag) s = .next (failed .fuContinuationWithoutStart s.frag we)) ∧
    (s.frag.active = true → fragFits s.cfg acc.length = false →
      exec (.fuAMiddle f nri r ot frag) s = .next (failed .fragmentOverflow Frag.idle wm) ∧
      exec (.fuAEnd f nri r ot frag) s = .next (failed .fragmentOverflow Frag.idle we)) ∧
    (s.frag.active = true → fragFits s.cfg acc.length = true →
      exec (.fuAMiddle f nri r ot frag) s = .next { s with frag := { s.frag with acc := acc }, w := wm } ∧
      exec (.fuAEnd f nri r ot frag) s = .next { s with
        frag := Frag.idle
        output := s.output ++ [acc]
        ctr := { s.ctr with nalUnits := s.ctr.nalUnits + 1, fuaComplete := s.ctr.fuaComplete + 1 }
        res := { s.res with emitted := s.res.emitted + 1 }
        w := we })

/-- `FU_A` (R140) completes in every state, and does what the row of its FU header does: `S` is bit 7 and `E` bit 6
(R145; decision D17). -/
def Obligations.FuADispatchesOnStartAndEnd : Prop :=
  ∀ (s : State) (f : Bool) (nri : BitVec 2) (fuh : Byte) (frag : Bytes),
    let n := fuh.toNat
    ∃ i r ot t, exec (.fuA f nri (fuh :: frag)) s = .next t ∧ exec i s = .next t ∧ ot.toNat = n % 32 ∧
      (n / 64 = 0 → i = .fuAMiddle f nri r ot frag) ∧ (n / 64 = 1 → i = .fuAEnd f nri r ot frag) ∧
      (n / 64 = 2 → i = .fuAStart f nri r ot frag) ∧ (n / 64 = 3 → i = .fuAStartEnd f nri r ot frag)

/-- A NAL unit cut into a start fragment, any number of middle fragments and an end fragment comes out as exactly one
record: the start code taken at the start, the original header, all the bytes in order (95_test_vectors.md W1), where
`MAX_FRAG_BYTES` holds it (decision D19). Later fragments' `F`, `NRI` and `OT` are not looked at (decision D18). Rows
run one after another outside a datagram are log entry 3's form. -/
def Obligations.FragmentedUnitReassembled : Prop :=
  ∀ (s : State) (first last : FuPiece) (middles : List FuPiece),
    let record := s.nextStartCode ++ fuUnit first middles last
    fragFits s.cfg record.length = true →
    ∃ t, runAll (fuRows first middles last) s = .next t ∧
      t.output = s.output ++ [record] ∧ t.frag = Frag.idle ∧ t.plan = s.plan.next.2 ∧
      t.ctr.fuaComplete = s.ctr.fuaComplete + 1 ∧ t.ctr.nalUnits = s.ctr.nalUnits + 1 ∧
      t.ctr.decodeErrors = s.ctr.decodeErrors + abandonCount s

/-! ## The start-code formatter -/

/-- The two start codes, and no other (R90, R161). -/
def Obligations.StartCodeBytes : Prop :=
  startCode .three = [0x00#8, 0x00#8, 0x01#8] ∧ startCode .four = [0x00#8, 0x00#8, 0x00#8, 0x01#8] ∧
  ∀ n : ScLen, startCode n = startCode .three ∨ startCode n = startCode .four

/-- `n` successive `SC()` calls (R160): in Fixed mode, or once exhausted, the configured length every time and no change
of the plan; in Replay mode the recorded lengths from the cursor on, then the configured length for good (the fallback
length and its permanence: decisions D23, D24). -/
def Obligations.FormatterReplaysThenFallsBack : Prop :=
  ∀ (n : Nat) (p : Plan),
    (p.mode = .fixed ∨ p.exhausted = true → Plan.take n p = (List.replicate n (startCode p.len), p)) ∧
    (p.mode = .replay → p.exhausted = false → p.cursor ≤ p.list.length →
      (Plan.take n p).1 = ((p.list.drop p.cursor).take n).map startCode ++
        List.replicate (n - (p.list.length - p.cursor)) (startCode p.len) ∧
      (Plan.take n p).2 = { p with
        cursor := min (p.cursor + n) p.list.length
        exhausted := decide (p.list.length < p.cursor + n) })

/-- In Replay mode, with as many recorded lengths ahead of the cursor as units, packets that carry whole units in any of
the forms of R162 and raise no event put out exactly the reference stream: each recorded start code followed by its unit
(R163, derived there; decisions D17, D18, D23, D37). With an unbounded buffer and no fragment open at the start there is
no event (decision D19). Rows run one after another outside datagrams are log entry 3's form. -/
def Obligations.ReplayReproducesStream : Prop :=
  ∀ (s : State) (l : List Carrier), (∀ x ∈ l, x.Ok) →
    s.plan.mode = .replay → s.plan.exhausted = false →
    s.plan.cursor + (l.flatMap Carrier.units).length = s.plan.list.length →
    ∃ t, runAll (l.flatMap Carrier.rows) s = .next t ∧
      (t.res.events = s.res.events →
        t.annexB = s.annexB ++ (List.zipWith (fun n u => startCode n ++ u) (s.plan.list.drop s.plan.cursor)
          (l.flatMap Carrier.units)).flatten) ∧
      (s.cfg.maxFragBytes = none → s.frag.active = false → t.res.events = s.res.events)

/-- The host's scanner recovers the units and the start-code lengths of a stream made of clean units (R200 to R202,
derived there; decision D41). The scanner is a function of the host outside the block (log entry 13). -/
def Obligations.ScannerRecoversCleanUnits : Prop :=
  ∀ (c : Config) (l : List (ScLen × Bytes)), (∀ x ∈ l, CleanUnit x.2) →
    (units c (l.flatMap fun x => startCode x.1 ++ x.2)).map (fun u => (u.nals.map nalUnitBytes, u.lens, u.skipped)) =
      some (l.map Prod.snd, l.map Prod.fst, 0)

/-! ## Registers -/

/-- A register read at an offset the interface carries completes in every state, answers the register and changes
nothing else (R66, R180; decisions D3, D40). -/
def Obligations.RegisterReadAnswersOnly : Prop :=
  ∀ (off : BitVec 8) (s : State), off.toNat % 8 = 0 →
    exec (.regRead off) s = .next { s with answers := s.answers ++ [s.regValue off] }

/-- The fields of the views, as numbers, and the counters (R31, R32, R33, R35, R36; decision D3). -/
def Obligations.RegisterMapValues : Prop :=
  ∀ s : State,
    (s.regValue 0x08#8).toNat = s.stopped.toNat + 2 * s.frag.active.toNat + 4 * s.seq.valid.toNat +
      8 * s.plan.exhausted.toNat + 2 ^ 8 * s.frag.ot.toNat + 2 ^ 16 * s.frag.hdr.toNat + 2 ^ 32 * s.seq.last.toNat ∧
    (s.regValue 0x10#8).toNat = s.plan.mode.bit.toNat + 2 * s.plan.len.bit.toNat ∧
    (s.regValue 0x20#8).toNat = s.plan.list.length % 2 ^ 32 + 2 ^ 32 * (s.plan.cursor % 2 ^ 32) ∧
    (s.regValue 0x28#8).toNat = s.frag.acc.length % 2 ^ 64 ∧
    [0x40#8, 0x48#8, 0x50#8, 0x58#8, 0x60#8, 0x68#8, 0x70#8, 0x78#8, 0x80#8, 0x88#8].map s.regValue =
      [s.ctr.packets, s.ctr.payloadBytes, s.ctr.nalUnits, s.ctr.lost, s.ctr.outOfOrder, s.ctr.duplicate,
       s.ctr.markers, s.ctr.fuaComplete, s.ctr.stapaUnits, s.ctr.decodeErrors] ∧
    s.regValue 0x00#8 = 0 ∧ s.regValue 0x18#8 = 0 ∧ s.regValue 0x30#8 = 0 ∧ s.regValue 0x38#8 = 0 ∧
    ∀ off : BitVec 8, 0x90 ≤ off.toNat → s.regValue off = 0

/-- Writes to read-only and unmapped offsets are ignored; writes at the three writable offsets do what their own rows do
(R28, R181; decision D30). -/
def Obligations.RegisterWritesElsewhereIgnored : Prop :=
  ∀ (off : BitVec 8) (v : Reg64) (s : State), off.toNat % 8 = 0 →
    (off.toNat ≠ 0x00 → off.toNat ≠ 0x10 → off.toNat ≠ 0x18 → exec (.regWrite off v) s = .next s) ∧
    (off.toNat = 0x00 → exec (.regWrite off v) s = exec (.ctrlStop v) s) ∧
    (off.toNat = 0x10 → exec (.regWrite off v) s = exec (.scCfgWrite v) s) ∧
    (off.toNat = 0x18 → exec (.regWrite off v) s = exec (.replayPushWrite v) s)

/-- A `CTRL` write completes in every state, whichever of its rows it decodes to: `SESSION_RESET` (bit 1), then
`REPLAY_CLEAR` (bit 2), then `STOP` (bit 0); `SC_CFG` and the streams are kept (R30, R183, R184, R185, R231; decisions
D24, D27, D28, D29). -/
def Obligations.ControlActionsInOrder : Prop :=
  ∀ (v : Reg64) (s : State),
    let after : State := { s with
      stopped := v.getLsbD 0 || (s.stopped && !v.getLsbD 1)
      frag := if v.getLsbD 1 then Frag.idle else s.frag
      seq := if v.getLsbD 1 then ⟨false, 0#16⟩ else s.seq
      ctr := if v.getLsbD 1 then Counters.zero else s.ctr
      plan := { s.plan with
        list := if v.getLsbD 2 then [] else s.plan.list
        cursor := if v.getLsbD 1 || v.getLsbD 2 then 0 else s.plan.cursor
        exhausted := !v.getLsbD 1 && !v.getLsbD 2 && s.plan.exhausted } }
    exec (.ctrlStop v) s = .next after ∧ exec (.ctrlSessionReset v) s = .next after ∧
    exec (.ctrlReplayClear v) s = .next after

/-- A write to `SC_CFG` completes in every state: its two low bits are kept, read back, and nothing else changes
(R32, R164, R182; decision D42). -/
def Obligations.ScCfgKeepsTwoBits : Prop :=
  ∀ (v : Reg64) (s : State),
    ∃ m n, exec (.scCfgWrite v) s = .next { s with plan := { s.plan with mode := m, len := n } } ∧
      ({ s with plan := { s.plan with mode := m, len := n } } : State).regValue 0x10#8 = v &&& 3

/-- A write to `REPLAY_PUSH` completes in every state: a value whose low three bits are 3 or 4 is appended while the
list is below `REPLAY_CAP`; any other write is ignored (R34, R186; decision D25). -/
def Obligations.ReplayPushAppends : Prop :=
  ∀ (v : Reg64) (s : State),
    (v.toNat % 8 = 3 → s.plan.list.length < s.cfg.replayCap →
      exec (.replayPushWrite v) s = .next { s with plan := { s.plan with list := s.plan.list ++ [.three] } }) ∧
    (v.toNat % 8 = 4 → s.plan.list.length < s.cfg.replayCap →
      exec (.replayPushWrite v) s = .next { s with plan := { s.plan with list := s.plan.list ++ [.four] } }) ∧
    ((v.toNat % 8 ≠ 3 ∧ v.toNat % 8 ≠ 4) ∨ s.cfg.replayCap ≤ s.plan.list.length →
      exec (.replayPushWrite v) s = .next s)

/-! ## The whole machine -/

/-- The registers after `RESET` (R230, K01; decision D26): `SC_CFG` reads 2 and every other offset 0; the streams are
empty and no fragment is open. -/
def Obligations.ResetValues : Prop :=
  State.reset.observation =
    { registers := (List.range 32).map (fun k => if k = 2 then 2 else 0), stream := [], results := [],
      frag := ⟨false, 0#5, 0#8, []⟩ }

/-- The state after `RESET` satisfies the invariant (decision D26). That the working registers, which R230 leaves
unspecified, `D` and the open record are idle there is the model's choice (log entries 5, 6), and so are the parameters
of `State.reset` (R7's defaults; log entry 8). -/
def Obligations.ResetSatisfiesInvariant : Prop := State.reset.Inv

/-- Every step keeps the invariant: the fragment state is cleared or holds a start code and its header (R23), the
cursor is inside the list (R25), every result record has a form R214 allows, every record begins with a start code
(R91), nothing transient survives the step (R20; decisions D5, D12, D20,
D25; log entries 5, 6, 8). -/
def Obligations.EveryStepKeepsInvariant : Prop :=
  ∀ s t : State, s.Inv → step s = .next t → t.Inv

/-- No step but `RESET` withdraws a record, a result or an answer, and no step changes the parameters (R63,
R37; decision D43; log entries 7, 8). -/
def Obligations.StreamsOnlyGrow : Prop :=
  ∀ s t : State, step s = .next t →
    t.cfg = s.cfg ∧ (IsReset s ∨ (s.output <+: t.output ∧ s.results <+: t.results ∧ s.answers <+: t.answers))

/-- Only `RESET` or a `SESSION_RESET` ends a stop, only a `STOP` begins one (R22, R183, R184; decisions D27, D28). -/
def Obligations.OnlySessionResetEndsStop : Prop :=
  ∀ s t : State, step s = .next t →
    (s.stopped = true → t.stopped = false → IsReset s ∨ IsCtrlWrite s 1) ∧
    (s.stopped = false → t.stopped = true → IsCtrlWrite s 0)

/-- An exhausted replay stays exhausted until `REPLAY_CLEAR`, `SESSION_RESET` or `RESET` (R160; decision D24). -/
def Obligations.ExhaustedReplayStaysExhausted : Prop :=
  ∀ s t : State, step s = .next t → s.plan.exhausted = true → t.plan.exhausted = false →
    IsReset s ∨ IsCtrlWrite s 1 ∨ IsCtrlWrite s 2

/-- The host cannot write a counter: only a datagram, a `SESSION_RESET` or `RESET` changes one (R26, R36; decision
D40). -/
def Obligations.OnlyDatagramsAndResetsChangeCounters : Prop :=
  ∀ s t : State, step s = .next t → t.ctr ≠ s.ctr → IsReset s ∨ IsCtrlWrite s 1 ∨ IsDgram s

/-- The only step that shortens or forgets an open fragment without sending it is one R22 names: with a fragment open
and a step that is neither a datagram nor a `SESSION_RESET` nor `RESET`, the fragment is kept whole (R183, R238). -/
def Obligations.OpenFragmentSurvivesOtherSteps : Prop :=
  ∀ s t : State, step s = .next t → t.frag ≠ s.frag →
    IsReset s ∨ IsCtrlWrite s 1 ∨ (IsDgram s ∧ s.stopped = false)

/-- Sequence numbers steer nothing but the tracker (`45_sequence.md` R177, decision D39): two blocks that differ in what
the tracker keeps and in the sequence numbers of their datagrams still differ in no more after every step, whatever its
input; they answer every `REG_READ` alike, but for the registers that show the tracker; and one is stuck where the other
is. Inputs held in the state, idling and `RESET` as an input are log entry 2's form, the answers log entry 7's, a
refused transaction log entry 9's; that every datagram completes rests on unbounded streams (log entry 11). -/
def Obligations.SequenceNumbersSteerNoStep : Prop :=
  ∀ s s' : State, AgreeButSequence s s' →
    (∀ t, step s = .next t → ∃ t', step s' = .next t' ∧ AgreeButSequence t t' ∧
      (s'.answers = s.answers → IsTrackerRead s ∨ t'.answers = t.answers)) ∧
    (∀ r, step s = .refused r → step s' = .refused r)
end

