-- ==== Sys2Proof/Laws/State.lean ====
section
/-! SUPPORT. One lemma per field per update of the state, so that no later proof unfolds a record update. -/

namespace Sys2Proof.Machine

variable (s : State)

@[simp] theorem State.raise_cfg (ev : Event) : (s.raise ev).cfg = s.cfg := rfl
@[simp] theorem State.raise_inputs (ev : Event) : (s.raise ev).inputs = s.inputs := rfl
@[simp] theorem State.raise_stopped (ev : Event) : (s.raise ev).stopped = s.stopped := rfl
@[simp] theorem State.raise_frag (ev : Event) : (s.raise ev).frag = s.frag := rfl
@[simp] theorem State.raise_seq (ev : Event) : (s.raise ev).seq = s.seq := rfl
@[simp] theorem State.raise_plan (ev : Event) : (s.raise ev).plan = s.plan := rfl
@[simp] theorem State.raise_ctr (ev : Event) : (s.raise ev).ctr = { s.ctr with decodeErrors := s.ctr.decodeErrors + 1 } := rfl
@[simp] theorem State.raise_output (ev : Event) : (s.raise ev).output = s.output := rfl
@[simp] theorem State.raise_results (ev : Event) : (s.raise ev).results = s.results := rfl
@[simp] theorem State.raise_answers (ev : Event) : (s.raise ev).answers = s.answers := rfl
@[simp] theorem State.raise_dgram (ev : Event) : (s.raise ev).dgram = s.dgram := rfl
@[simp] theorem State.raise_w (ev : Event) : (s.raise ev).w = s.w := rfl
@[simp] theorem State.raise_res (ev : Event) : (s.raise ev).res = { s.res with events := s.res.events ++ [ev] } := rfl

@[simp] theorem State.emit_cfg (b : Bytes) : (s.emit b).cfg = s.cfg := rfl
@[simp] theorem State.emit_inputs (b : Bytes) : (s.emit b).inputs = s.inputs := rfl
@[simp] theorem State.emit_stopped (b : Bytes) : (s.emit b).stopped = s.stopped := rfl
@[simp] theorem State.emit_frag (b : Bytes) : (s.emit b).frag = s.frag := rfl
@[simp] theorem State.emit_seq (b : Bytes) : (s.emit b).seq = s.seq := rfl
@[simp] theorem State.emit_plan (b : Bytes) : (s.emit b).plan = s.plan := rfl
@[simp] theorem State.emit_ctr (b : Bytes) : (s.emit b).ctr = s.ctr := rfl
@[simp] theorem State.emit_output (b : Bytes) : (s.emit b).output = s.output ++ [b] := rfl
@[simp] theorem State.emit_results (b : Bytes) : (s.emit b).results = s.results := rfl
@[simp] theorem State.emit_answers (b : Bytes) : (s.emit b).answers = s.answers := rfl
@[simp] theorem State.emit_dgram (b : Bytes) : (s.emit b).dgram = s.dgram := rfl
@[simp] theorem State.emit_w (b : Bytes) : (s.emit b).w = s.w := rfl
@[simp] theorem State.emit_res (b : Bytes) : (s.emit b).res = { s.res with emitted := s.res.emitted + 1 } := rfl

@[simp] theorem State.countNal_cfg : (s.countNal).cfg = s.cfg := rfl
@[simp] theorem State.countNal_inputs : (s.countNal).inputs = s.inputs := rfl
@[simp] theorem State.countNal_stopped : (s.countNal).stopped = s.stopped := rfl
@[simp] theorem State.countNal_frag : (s.countNal).frag = s.frag := rfl
@[simp] theorem State.countNal_seq : (s.countNal).seq = s.seq := rfl
@[simp] theorem State.countNal_plan : (s.countNal).plan = s.plan := rfl
@[simp] theorem State.countNal_ctr : (s.countNal).ctr = { s.ctr with nalUnits := s.ctr.nalUnits + 1 } := rfl
@[simp] theorem State.countNal_output : (s.countNal).output = s.output := rfl
@[simp] theorem State.countNal_results : (s.countNal).results = s.results := rfl
@[simp] theorem State.countNal_answers : (s.countNal).answers = s.answers := rfl
@[simp] theorem State.countNal_dgram : (s.countNal).dgram = s.dgram := rfl
@[simp] theorem State.countNal_w : (s.countNal).w = s.w := rfl
@[simp] theorem State.countNal_res : (s.countNal).res = s.res := rfl

@[simp] theorem State.countFua_cfg : (s.countFua).cfg = s.cfg := rfl
@[simp] theorem State.countFua_inputs : (s.countFua).inputs = s.inputs := rfl
@[simp] theorem State.countFua_stopped : (s.countFua).stopped = s.stopped := rfl
@[simp] theorem State.countFua_frag : (s.countFua).frag = s.frag := rfl
@[simp] theorem State.countFua_seq : (s.countFua).seq = s.seq := rfl
@[simp] theorem State.countFua_plan : (s.countFua).plan = s.plan := rfl
@[simp] theorem State.countFua_ctr : (s.countFua).ctr = { s.ctr with fuaComplete := s.ctr.fuaComplete + 1 } := rfl
@[simp] theorem State.countFua_output : (s.countFua).output = s.output := rfl
@[simp] theorem State.countFua_results : (s.countFua).results = s.results := rfl
@[simp] theorem State.countFua_answers : (s.countFua).answers = s.answers := rfl
@[simp] theorem State.countFua_dgram : (s.countFua).dgram = s.dgram := rfl
@[simp] theorem State.countFua_w : (s.countFua).w = s.w := rfl
@[simp] theorem State.countFua_res : (s.countFua).res = s.res := rfl

@[simp] theorem State.countStapa_cfg : (s.countStapa).cfg = s.cfg := rfl
@[simp] theorem State.countStapa_inputs : (s.countStapa).inputs = s.inputs := rfl
@[simp] theorem State.countStapa_stopped : (s.countStapa).stopped = s.stopped := rfl
@[simp] theorem State.countStapa_frag : (s.countStapa).frag = s.frag := rfl
@[simp] theorem State.countStapa_seq : (s.countStapa).seq = s.seq := rfl
@[simp] theorem State.countStapa_plan : (s.countStapa).plan = s.plan := rfl
@[simp] theorem State.countStapa_ctr : (s.countStapa).ctr = { s.ctr with stapaUnits := s.ctr.stapaUnits + 1 } := rfl
@[simp] theorem State.countStapa_output : (s.countStapa).output = s.output := rfl
@[simp] theorem State.countStapa_results : (s.countStapa).results = s.results := rfl
@[simp] theorem State.countStapa_answers : (s.countStapa).answers = s.answers := rfl
@[simp] theorem State.countStapa_dgram : (s.countStapa).dgram = s.dgram := rfl
@[simp] theorem State.countStapa_w : (s.countStapa).w = s.w := rfl
@[simp] theorem State.countStapa_res : (s.countStapa).res = s.res := rfl

@[simp] theorem State.acceptCounters_cfg : (s.acceptCounters).cfg = s.cfg := rfl
@[simp] theorem State.acceptCounters_inputs : (s.acceptCounters).inputs = s.inputs := rfl
@[simp] theorem State.acceptCounters_stopped : (s.acceptCounters).stopped = s.stopped := rfl
@[simp] theorem State.acceptCounters_frag : (s.acceptCounters).frag = s.frag := rfl
@[simp] theorem State.acceptCounters_seq : (s.acceptCounters).seq = s.seq := rfl
@[simp] theorem State.acceptCounters_plan : (s.acceptCounters).plan = s.plan := rfl
@[simp] theorem State.acceptCounters_output : (s.acceptCounters).output = s.output := rfl
@[simp] theorem State.acceptCounters_results : (s.acceptCounters).results = s.results := rfl
@[simp] theorem State.acceptCounters_answers : (s.acceptCounters).answers = s.answers := rfl
@[simp] theorem State.acceptCounters_dgram : (s.acceptCounters).dgram = s.dgram := rfl
@[simp] theorem State.acceptCounters_w : (s.acceptCounters).w = s.w := rfl
@[simp] theorem State.acceptCounters_res : (s.acceptCounters).res = s.res := rfl

@[simp] theorem State.advancePlan_cfg : (s.advancePlan).cfg = s.cfg := rfl
@[simp] theorem State.advancePlan_inputs : (s.advancePlan).inputs = s.inputs := rfl
@[simp] theorem State.advancePlan_stopped : (s.advancePlan).stopped = s.stopped := rfl
@[simp] theorem State.advancePlan_frag : (s.advancePlan).frag = s.frag := rfl
@[simp] theorem State.advancePlan_seq : (s.advancePlan).seq = s.seq := rfl
@[simp] theorem State.advancePlan_plan : (s.advancePlan).plan = s.plan.next.2 := rfl
@[simp] theorem State.advancePlan_ctr : (s.advancePlan).ctr = s.ctr := rfl
@[simp] theorem State.advancePlan_output : (s.advancePlan).output = s.output := rfl
@[simp] theorem State.advancePlan_results : (s.advancePlan).results = s.results := rfl
@[simp] theorem State.advancePlan_answers : (s.advancePlan).answers = s.answers := rfl
@[simp] theorem State.advancePlan_dgram : (s.advancePlan).dgram = s.dgram := rfl
@[simp] theorem State.advancePlan_w : (s.advancePlan).w = s.w := rfl
@[simp] theorem State.advancePlan_res : (s.advancePlan).res = s.res := rfl

@[simp] theorem State.emitNal_cfg (b : Bytes) : (s.emitNal b).cfg = s.cfg := rfl
@[simp] theorem State.emitNal_inputs (b : Bytes) : (s.emitNal b).inputs = s.inputs := rfl
@[simp] theorem State.emitNal_stopped (b : Bytes) : (s.emitNal b).stopped = s.stopped := rfl
@[simp] theorem State.emitNal_frag (b : Bytes) : (s.emitNal b).frag = s.frag := rfl
@[simp] theorem State.emitNal_seq (b : Bytes) : (s.emitNal b).seq = s.seq := rfl
@[simp] theorem State.emitNal_plan (b : Bytes) : (s.emitNal b).plan = s.plan.next.2 := rfl
@[simp] theorem State.emitNal_ctr (b : Bytes) : (s.emitNal b).ctr = { s.ctr with nalUnits := s.ctr.nalUnits + 1 } := rfl
@[simp] theorem State.emitNal_output (b : Bytes) : (s.emitNal b).output = s.output ++ [s.nextStartCode ++ b] := rfl
@[simp] theorem State.emitNal_results (b : Bytes) : (s.emitNal b).results = s.results := rfl
@[simp] theorem State.emitNal_answers (b : Bytes) : (s.emitNal b).answers = s.answers := rfl
@[simp] theorem State.emitNal_dgram (b : Bytes) : (s.emitNal b).dgram = s.dgram := rfl
@[simp] theorem State.emitNal_w (b : Bytes) : (s.emitNal b).w = s.w := rfl
@[simp] theorem State.emitNal_res (b : Bytes) : (s.emitNal b).res = { s.res with emitted := s.res.emitted + 1 } := rfl

@[simp] theorem State.closeFrag_cfg : (s.closeFrag).cfg = s.cfg := rfl
@[simp] theorem State.closeFrag_inputs : (s.closeFrag).inputs = s.inputs := rfl
@[simp] theorem State.closeFrag_stopped : (s.closeFrag).stopped = s.stopped := rfl
@[simp] theorem State.closeFrag_frag : (s.closeFrag).frag = Frag.idle := rfl
@[simp] theorem State.closeFrag_seq : (s.closeFrag).seq = s.seq := rfl
@[simp] theorem State.closeFrag_plan : (s.closeFrag).plan = s.plan := rfl
@[simp] theorem State.closeFrag_ctr : (s.closeFrag).ctr = s.ctr := rfl
@[simp] theorem State.closeFrag_output : (s.closeFrag).output = s.output := rfl
@[simp] theorem State.closeFrag_results : (s.closeFrag).results = s.results := rfl
@[simp] theorem State.closeFrag_answers : (s.closeFrag).answers = s.answers := rfl
@[simp] theorem State.closeFrag_dgram : (s.closeFrag).dgram = s.dgram := rfl
@[simp] theorem State.closeFrag_w : (s.closeFrag).w = s.w := rfl
@[simp] theorem State.closeFrag_res : (s.closeFrag).res = s.res := rfl

@[simp] theorem State.openDgram_cfg (d : Bytes) : (s.openDgram d).cfg = s.cfg := rfl
@[simp] theorem State.openDgram_inputs (d : Bytes) : (s.openDgram d).inputs = s.inputs := rfl
@[simp] theorem State.openDgram_stopped (d : Bytes) : (s.openDgram d).stopped = s.stopped := rfl
@[simp] theorem State.openDgram_frag (d : Bytes) : (s.openDgram d).frag = s.frag := rfl
@[simp] theorem State.openDgram_seq (d : Bytes) : (s.openDgram d).seq = s.seq := rfl
@[simp] theorem State.openDgram_plan (d : Bytes) : (s.openDgram d).plan = s.plan := rfl
@[simp] theorem State.openDgram_ctr (d : Bytes) : (s.openDgram d).ctr = s.ctr := rfl
@[simp] theorem State.openDgram_output (d : Bytes) : (s.openDgram d).output = s.output := rfl
@[simp] theorem State.openDgram_results (d : Bytes) : (s.openDgram d).results = s.results := rfl
@[simp] theorem State.openDgram_answers (d : Bytes) : (s.openDgram d).answers = s.answers := rfl
@[simp] theorem State.openDgram_dgram (d : Bytes) : (s.openDgram d).dgram = d := rfl
@[simp] theorem State.openDgram_w (d : Bytes) : (s.openDgram d).w = Working.idle := rfl
@[simp] theorem State.openDgram_res (d : Bytes) : (s.openDgram d).res = ResultRecord.start := rfl

@[simp] theorem State.setStatus_cfg (st : Status) : (s.setStatus st).cfg = s.cfg := rfl
@[simp] theorem State.setStatus_inputs (st : Status) : (s.setStatus st).inputs = s.inputs := rfl
@[simp] theorem State.setStatus_stopped (st : Status) : (s.setStatus st).stopped = s.stopped := rfl
@[simp] theorem State.setStatus_frag (st : Status) : (s.setStatus st).frag = s.frag := rfl
@[simp] theorem State.setStatus_seq (st : Status) : (s.setStatus st).seq = s.seq := rfl
@[simp] theorem State.setStatus_plan (st : Status) : (s.setStatus st).plan = s.plan := rfl
@[simp] theorem State.setStatus_ctr (st : Status) : (s.setStatus st).ctr = s.ctr := rfl
@[simp] theorem State.setStatus_output (st : Status) : (s.setStatus st).output = s.output := rfl
@[simp] theorem State.setStatus_results (st : Status) : (s.setStatus st).results = s.results := rfl
@[simp] theorem State.setStatus_answers (st : Status) : (s.setStatus st).answers = s.answers := rfl
@[simp] theorem State.setStatus_dgram (st : Status) : (s.setStatus st).dgram = s.dgram := rfl
@[simp] theorem State.setStatus_w (st : Status) : (s.setStatus st).w = s.w := rfl
@[simp] theorem State.setStatus_res (st : Status) : (s.setStatus st).res = { s.res with status := st } := rfl

@[simp] theorem State.resultOut_cfg : (s.resultOut).cfg = s.cfg := rfl
@[simp] theorem State.resultOut_inputs : (s.resultOut).inputs = s.inputs := rfl
@[simp] theorem State.resultOut_stopped : (s.resultOut).stopped = s.stopped := rfl
@[simp] theorem State.resultOut_frag : (s.resultOut).frag = s.frag := rfl
@[simp] theorem State.resultOut_seq : (s.resultOut).seq = s.seq := rfl
@[simp] theorem State.resultOut_plan : (s.resultOut).plan = s.plan := rfl
@[simp] theorem State.resultOut_ctr : (s.resultOut).ctr = s.ctr := rfl
@[simp] theorem State.resultOut_output : (s.resultOut).output = s.output := rfl
@[simp] theorem State.resultOut_results : (s.resultOut).results = s.results ++ [s.res] := rfl
@[simp] theorem State.resultOut_answers : (s.resultOut).answers = s.answers := rfl
@[simp] theorem State.resultOut_dgram : (s.resultOut).dgram = [] := rfl
@[simp] theorem State.resultOut_w : (s.resultOut).w = Working.idle := rfl
@[simp] theorem State.resultOut_res : (s.resultOut).res = ResultRecord.start := rfl

@[simp] theorem State.hardReset_cfg : (s.hardReset).cfg = s.cfg := rfl
@[simp] theorem State.hardReset_inputs : (s.hardReset).inputs = s.inputs := rfl
@[simp] theorem State.hardReset_stopped : (s.hardReset).stopped = State.reset.stopped := rfl
@[simp] theorem State.hardReset_frag : (s.hardReset).frag = State.reset.frag := rfl
@[simp] theorem State.hardReset_seq : (s.hardReset).seq = State.reset.seq := rfl
@[simp] theorem State.hardReset_plan : (s.hardReset).plan = State.reset.plan := rfl
@[simp] theorem State.hardReset_ctr : (s.hardReset).ctr = State.reset.ctr := rfl
@[simp] theorem State.hardReset_output : (s.hardReset).output = State.reset.output := rfl
@[simp] theorem State.hardReset_results : (s.hardReset).results = State.reset.results := rfl
@[simp] theorem State.hardReset_answers : (s.hardReset).answers = State.reset.answers := rfl
@[simp] theorem State.hardReset_dgram : (s.hardReset).dgram = State.reset.dgram := rfl
@[simp] theorem State.hardReset_w : (s.hardReset).w = State.reset.w := rfl
@[simp] theorem State.hardReset_res : (s.hardReset).res = State.reset.res := rfl

@[simp] theorem State.issue_cfg (t : HostTxn) : (s.issue t).cfg = s.cfg := rfl
@[simp] theorem State.issue_inputs (t : HostTxn) : (s.issue t).inputs = .txn t :: s.inputs := rfl
@[simp] theorem State.issue_stopped (t : HostTxn) : (s.issue t).stopped = s.stopped := rfl
@[simp] theorem State.issue_frag (t : HostTxn) : (s.issue t).frag = s.frag := rfl
@[simp] theorem State.issue_seq (t : HostTxn) : (s.issue t).seq = s.seq := rfl
@[simp] theorem State.issue_plan (t : HostTxn) : (s.issue t).plan = s.plan := rfl
@[simp] theorem State.issue_ctr (t : HostTxn) : (s.issue t).ctr = s.ctr := rfl
@[simp] theorem State.issue_output (t : HostTxn) : (s.issue t).output = s.output := rfl
@[simp] theorem State.issue_results (t : HostTxn) : (s.issue t).results = s.results := rfl
@[simp] theorem State.issue_answers (t : HostTxn) : (s.issue t).answers = s.answers := rfl
@[simp] theorem State.issue_dgram (t : HostTxn) : (s.issue t).dgram = s.dgram := rfl
@[simp] theorem State.issue_w (t : HostTxn) : (s.issue t).w = s.w := rfl
@[simp] theorem State.issue_res (t : HostTxn) : (s.issue t).res = s.res := rfl

@[simp] theorem State.setUlen_cfg (u : BitVec 16) : (s.setUlen u).cfg = s.cfg := rfl
@[simp] theorem State.setUlen_inputs (u : BitVec 16) : (s.setUlen u).inputs = s.inputs := rfl
@[simp] theorem State.setUlen_stopped (u : BitVec 16) : (s.setUlen u).stopped = s.stopped := rfl
@[simp] theorem State.setUlen_frag (u : BitVec 16) : (s.setUlen u).frag = s.frag := rfl
@[simp] theorem State.setUlen_seq (u : BitVec 16) : (s.setUlen u).seq = s.seq := rfl
@[simp] theorem State.setUlen_plan (u : BitVec 16) : (s.setUlen u).plan = s.plan := rfl
@[simp] theorem State.setUlen_ctr (u : BitVec 16) : (s.setUlen u).ctr = s.ctr := rfl
@[simp] theorem State.setUlen_output (u : BitVec 16) : (s.setUlen u).output = s.output := rfl
@[simp] theorem State.setUlen_results (u : BitVec 16) : (s.setUlen u).results = s.results := rfl
@[simp] theorem State.setUlen_answers (u : BitVec 16) : (s.setUlen u).answers = s.answers := rfl
@[simp] theorem State.setUlen_dgram (u : BitVec 16) : (s.setUlen u).dgram = s.dgram := rfl
@[simp] theorem State.setUlen_w (u : BitVec 16) : (s.setUlen u).w = { s.w with ulen := u } := rfl
@[simp] theorem State.setUlen_res (u : BitVec 16) : (s.setUlen u).res = s.res := rfl

@[simp] theorem State.setOff_cfg (n : BitVec 17) : (s.setOff n).cfg = s.cfg := rfl
@[simp] theorem State.setOff_inputs (n : BitVec 17) : (s.setOff n).inputs = s.inputs := rfl
@[simp] theorem State.setOff_stopped (n : BitVec 17) : (s.setOff n).stopped = s.stopped := rfl
@[simp] theorem State.setOff_frag (n : BitVec 17) : (s.setOff n).frag = s.frag := rfl
@[simp] theorem State.setOff_seq (n : BitVec 17) : (s.setOff n).seq = s.seq := rfl
@[simp] theorem State.setOff_plan (n : BitVec 17) : (s.setOff n).plan = s.plan := rfl
@[simp] theorem State.setOff_ctr (n : BitVec 17) : (s.setOff n).ctr = s.ctr := rfl
@[simp] theorem State.setOff_output (n : BitVec 17) : (s.setOff n).output = s.output := rfl
@[simp] theorem State.setOff_results (n : BitVec 17) : (s.setOff n).results = s.results := rfl
@[simp] theorem State.setOff_answers (n : BitVec 17) : (s.setOff n).answers = s.answers := rfl
@[simp] theorem State.setOff_dgram (n : BitVec 17) : (s.setOff n).dgram = s.dgram := rfl
@[simp] theorem State.setOff_w (n : BitVec 17) : (s.setOff n).w = { s.w with off := n } := rfl
@[simp] theorem State.setOff_res (n : BitVec 17) : (s.setOff n).res = s.res := rfl

@[simp] theorem State.loadFu_cfg (a b : Byte) : (s.loadFu a b).cfg = s.cfg := rfl
@[simp] theorem State.loadFu_inputs (a b : Byte) : (s.loadFu a b).inputs = s.inputs := rfl
@[simp] theorem State.loadFu_stopped (a b : Byte) : (s.loadFu a b).stopped = s.stopped := rfl
@[simp] theorem State.loadFu_frag (a b : Byte) : (s.loadFu a b).frag = s.frag := rfl
@[simp] theorem State.loadFu_seq (a b : Byte) : (s.loadFu a b).seq = s.seq := rfl
@[simp] theorem State.loadFu_plan (a b : Byte) : (s.loadFu a b).plan = s.plan := rfl
@[simp] theorem State.loadFu_ctr (a b : Byte) : (s.loadFu a b).ctr = s.ctr := rfl
@[simp] theorem State.loadFu_output (a b : Byte) : (s.loadFu a b).output = s.output := rfl
@[simp] theorem State.loadFu_results (a b : Byte) : (s.loadFu a b).results = s.results := rfl
@[simp] theorem State.loadFu_answers (a b : Byte) : (s.loadFu a b).answers = s.answers := rfl
@[simp] theorem State.loadFu_dgram (a b : Byte) : (s.loadFu a b).dgram = s.dgram := rfl
@[simp] theorem State.loadFu_res (a b : Byte) : (s.loadFu a b).res = s.res := rfl

@[simp] theorem State.noteSeq_cfg (c : SeqClass) (n : Nat) : (s.noteSeq c n).cfg = s.cfg := rfl
@[simp] theorem State.noteSeq_inputs (c : SeqClass) (n : Nat) : (s.noteSeq c n).inputs = s.inputs := rfl
@[simp] theorem State.noteSeq_stopped (c : SeqClass) (n : Nat) : (s.noteSeq c n).stopped = s.stopped := rfl
@[simp] theorem State.noteSeq_frag (c : SeqClass) (n : Nat) : (s.noteSeq c n).frag = s.frag := rfl
@[simp] theorem State.noteSeq_seq (c : SeqClass) (n : Nat) : (s.noteSeq c n).seq = { s.seq with last := s.w.seq } := rfl
@[simp] theorem State.noteSeq_plan (c : SeqClass) (n : Nat) : (s.noteSeq c n).plan = s.plan := rfl
@[simp] theorem State.noteSeq_ctr (c : SeqClass) (n : Nat) : (s.noteSeq c n).ctr = s.ctr := rfl
@[simp] theorem State.noteSeq_output (c : SeqClass) (n : Nat) : (s.noteSeq c n).output = s.output := rfl
@[simp] theorem State.noteSeq_results (c : SeqClass) (n : Nat) : (s.noteSeq c n).results = s.results := rfl
@[simp] theorem State.noteSeq_answers (c : SeqClass) (n : Nat) : (s.noteSeq c n).answers = s.answers := rfl
@[simp] theorem State.noteSeq_dgram (c : SeqClass) (n : Nat) : (s.noteSeq c n).dgram = s.dgram := rfl
@[simp] theorem State.noteSeq_w (c : SeqClass) (n : Nat) : (s.noteSeq c n).w = s.w := rfl
@[simp] theorem State.noteSeq_res (c : SeqClass) (n : Nat) : (s.noteSeq c n).res = { s.res with seqClass := c, lostN := n } := rfl

@[simp] theorem State.stop_cfg : (s.stop).cfg = s.cfg := rfl
@[simp] theorem State.stop_inputs : (s.stop).inputs = s.inputs := rfl
@[simp] theorem State.stop_stopped : (s.stop).stopped = true := rfl
@[simp] theorem State.stop_frag : (s.stop).frag = s.frag := rfl
@[simp] theorem State.stop_seq : (s.stop).seq = s.seq := rfl
@[simp] theorem State.stop_plan : (s.stop).plan = s.plan := rfl
@[simp] theorem State.stop_ctr : (s.stop).ctr = s.ctr := rfl
@[simp] theorem State.stop_output : (s.stop).output = s.output := rfl
@[simp] theorem State.stop_results : (s.stop).results = s.results := rfl
@[simp] theorem State.stop_answers : (s.stop).answers = s.answers := rfl
@[simp] theorem State.stop_dgram : (s.stop).dgram = s.dgram := rfl
@[simp] theorem State.stop_w : (s.stop).w = s.w := rfl
@[simp] theorem State.stop_res : (s.stop).res = s.res := rfl

@[simp] theorem State.sessionReset_cfg : (s.sessionReset).cfg = s.cfg := rfl
@[simp] theorem State.sessionReset_inputs : (s.sessionReset).inputs = s.inputs := rfl
@[simp] theorem State.sessionReset_stopped : (s.sessionReset).stopped = false := rfl
@[simp] theorem State.sessionReset_frag : (s.sessionReset).frag = Frag.idle := rfl
@[simp] theorem State.sessionReset_seq : (s.sessionReset).seq = ⟨false, 0#16⟩ := rfl
@[simp] theorem State.sessionReset_plan : (s.sessionReset).plan = { s.plan with cursor := 0, exhausted := false } := rfl
@[simp] theorem State.sessionReset_ctr : (s.sessionReset).ctr = Counters.zero := rfl
@[simp] theorem State.sessionReset_output : (s.sessionReset).output = s.output := rfl
@[simp] theorem State.sessionReset_results : (s.sessionReset).results = s.results := rfl
@[simp] theorem State.sessionReset_answers : (s.sessionReset).answers = s.answers := rfl
@[simp] theorem State.sessionReset_dgram : (s.sessionReset).dgram = s.dgram := rfl
@[simp] theorem State.sessionReset_w : (s.sessionReset).w = s.w := rfl
@[simp] theorem State.sessionReset_res : (s.sessionReset).res = s.res := rfl

@[simp] theorem State.replayClear_cfg : (s.replayClear).cfg = s.cfg := rfl
@[simp] theorem State.replayClear_inputs : (s.replayClear).inputs = s.inputs := rfl
@[simp] theorem State.replayClear_stopped : (s.replayClear).stopped = s.stopped := rfl
@[simp] theorem State.replayClear_frag : (s.replayClear).frag = s.frag := rfl
@[simp] theorem State.replayClear_seq : (s.replayClear).seq = s.seq := rfl
@[simp] theorem State.replayClear_plan : (s.replayClear).plan = { s.plan with list := [], cursor := 0, exhausted := false } := rfl
@[simp] theorem State.replayClear_ctr : (s.replayClear).ctr = s.ctr := rfl
@[simp] theorem State.replayClear_output : (s.replayClear).output = s.output := rfl
@[simp] theorem State.replayClear_results : (s.replayClear).results = s.results := rfl
@[simp] theorem State.replayClear_answers : (s.replayClear).answers = s.answers := rfl
@[simp] theorem State.replayClear_dgram : (s.replayClear).dgram = s.dgram := rfl
@[simp] theorem State.replayClear_w : (s.replayClear).w = s.w := rfl
@[simp] theorem State.replayClear_res : (s.replayClear).res = s.res := rfl

@[simp] theorem State.writeScCfg_cfg (v : Reg64) : (s.writeScCfg v).cfg = s.cfg := rfl
@[simp] theorem State.writeScCfg_inputs (v : Reg64) : (s.writeScCfg v).inputs = s.inputs := rfl
@[simp] theorem State.writeScCfg_stopped (v : Reg64) : (s.writeScCfg v).stopped = s.stopped := rfl
@[simp] theorem State.writeScCfg_frag (v : Reg64) : (s.writeScCfg v).frag = s.frag := rfl
@[simp] theorem State.writeScCfg_seq (v : Reg64) : (s.writeScCfg v).seq = s.seq := rfl
@[simp] theorem State.writeScCfg_ctr (v : Reg64) : (s.writeScCfg v).ctr = s.ctr := rfl
@[simp] theorem State.writeScCfg_output (v : Reg64) : (s.writeScCfg v).output = s.output := rfl
@[simp] theorem State.writeScCfg_results (v : Reg64) : (s.writeScCfg v).results = s.results := rfl
@[simp] theorem State.writeScCfg_answers (v : Reg64) : (s.writeScCfg v).answers = s.answers := rfl
@[simp] theorem State.writeScCfg_dgram (v : Reg64) : (s.writeScCfg v).dgram = s.dgram := rfl
@[simp] theorem State.writeScCfg_w (v : Reg64) : (s.writeScCfg v).w = s.w := rfl
@[simp] theorem State.writeScCfg_res (v : Reg64) : (s.writeScCfg v).res = s.res := rfl

theorem State.acceptCounters_ctr : s.acceptCounters.ctr = { s.ctr with
    packets := s.ctr.packets + 1
    payloadBytes := s.ctr.payloadBytes + s.w.plen.setWidth 64
    markers := s.ctr.markers + (BitVec.ofBool s.w.m).setWidth 64 } := rfl

@[simp] theorem State.loadFu_w_ot (a b : Byte) : (s.loadFu a b).w.ot = b.extractLsb' 0 5 := rfl
@[simp] theorem State.loadFu_w_rhdr (a b : Byte) :
    (s.loadFu a b).w.rhdr = rebuiltHeader a (b.extractLsb' 0 5) := rfl

@[simp] theorem State.writeScCfg_plan_list (v : Reg64) : (s.writeScCfg v).plan.list = s.plan.list := rfl
@[simp] theorem State.writeScCfg_plan_cursor (v : Reg64) : (s.writeScCfg v).plan.cursor = s.plan.cursor := rfl
@[simp] theorem State.writeScCfg_plan_exhausted (v : Reg64) : (s.writeScCfg v).plan.exhausted = s.plan.exhausted := rfl

/-! The start code of the next call depends on the plan alone. -/

@[simp] theorem State.raise_nextStartCode (ev : Event) : (s.raise ev).nextStartCode = s.nextStartCode := rfl
@[simp] theorem State.closeFrag_nextStartCode : s.closeFrag.nextStartCode = s.nextStartCode := rfl
@[simp] theorem State.setUlen_nextStartCode (u : BitVec 16) : (s.setUlen u).nextStartCode = s.nextStartCode := rfl
@[simp] theorem State.setOff_nextStartCode (n : BitVec 17) : (s.setOff n).nextStartCode = s.nextStartCode := rfl
@[simp] theorem State.loadFu_nextStartCode (a b : Byte) : (s.loadFu a b).nextStartCode = s.nextStartCode := rfl

end Sys2Proof.Machine
end

