-- ==== Sys2Proof/Laws/Fields.lean ====
section
/-! SUPPORT. The bit fields of the formats of `30_encoding.md`: each field of a word that was put together reads back, and
a word is put together again from its fields. -/

namespace Sys2Proof

theorem extract_append_low {m n : Nat} (a : BitVec m) (b : BitVec n) : (a ++ b).extractLsb' 0 n = b := by
  apply BitVec.eq_of_getLsbD_eq; intro i h
  simp [BitVec.getLsbD_append, h]

theorem extract_append_high {m n : Nat} (a : BitVec m) (b : BitVec n) : (a ++ b).extractLsb' n m = a := by
  apply BitVec.eq_of_getLsbD_eq; intro i h
  simp [BitVec.getLsbD_append, h]

theorem extract_append_top {l m n : Nat} (a : BitVec l) (b : BitVec m) (c : BitVec n) :
    (a ++ b ++ c).extractLsb' (n + m) l = a := by
  apply BitVec.eq_of_getLsbD_eq; intro i h
  have h1 : ¬ n + m + i < n := by omega
  have h2 : ¬ n + m + i - n < m := by omega
  have h3 : n + m + i - n - m = i := by omega
  simp [BitVec.getLsbD_append, h, h1, h2, h3]

theorem extract_append_mid {l m n : Nat} (a : BitVec l) (b : BitVec m) (c : BitVec n) :
    (a ++ b ++ c).extractLsb' n m = b := by
  apply BitVec.eq_of_getLsbD_eq; intro i h
  simp [BitVec.getLsbD_append, h]

/-! ## NAL header, FU header, RTP byte 0 -/

@[simp] theorem nalF_nalHeader (f : Bool) (nri : BitVec 2) (t : BitVec 5) : nalF (nalHeader f nri t) = f := by
  revert f nri t; decide

@[simp] theorem nalNri_nalHeader (f : Bool) (nri : BitVec 2) (t : BitVec 5) : nalNri (nalHeader f nri t) = nri := by
  revert f nri t; decide

@[simp] theorem nalType_nalHeader (f : Bool) (nri : BitVec 2) (t : BitVec 5) : nalType (nalHeader f nri t) = t :=
  extract_append_low (BitVec.ofBool f ++ nri) t

theorem nalHeader_fields (b : Byte) : nalHeader (nalF b) (nalNri b) (nalType b) = b := by
  revert b; decide

theorem fuHeader_s (s e r : Bool) (ot : BitVec 5) : (fuHeader s e r ot).getLsbD 7 = s := by
  revert s e r ot; decide

@[simp] theorem fuHeader_getElem_s (s e r : Bool) (ot : BitVec 5) : (fuHeader s e r ot)[7] = s :=
  fuHeader_s s e r ot

theorem fuHeader_e (s e r : Bool) (ot : BitVec 5) : (fuHeader s e r ot).getLsbD 6 = e := by
  revert s e r ot; decide

@[simp] theorem fuHeader_getElem_e (s e r : Bool) (ot : BitVec 5) : (fuHeader s e r ot)[6] = e :=
  fuHeader_e s e r ot

theorem fuHeader_r (s e r : Bool) (ot : BitVec 5) : (fuHeader s e r ot).getLsbD 5 = r := by
  revert s e r ot; decide

@[simp] theorem fuHeader_getElem_r (s e r : Bool) (ot : BitVec 5) : (fuHeader s e r ot)[5] = r :=
  fuHeader_r s e r ot

@[simp] theorem fuHeader_ot (s e r : Bool) (ot : BitVec 5) : (fuHeader s e r ot).extractLsb' 0 5 = ot :=
  extract_append_low (BitVec.ofBool s ++ BitVec.ofBool e ++ BitVec.ofBool r) ot

theorem fuHeader_fields (b : Byte) :
    fuHeader (b.getLsbD 7) (b.getLsbD 6) (b.getLsbD 5) (b.extractLsb' 0 5) = b := by
  revert b; decide

@[simp] theorem rtpByte0_v (v : BitVec 2) (p x : Bool) (cc : BitVec 4) : (rtpByte0 v p x cc).extractLsb' 6 2 = v := by
  revert v p x cc; decide

theorem rtpByte0_p (v : BitVec 2) (p x : Bool) (cc : BitVec 4) : (rtpByte0 v p x cc).getLsbD 5 = p := by
  revert v p x cc; decide

@[simp] theorem rtpByte0_getElem_p (v : BitVec 2) (p x : Bool) (cc : BitVec 4) : (rtpByte0 v p x cc)[5] = p :=
  rtpByte0_p v p x cc

theorem rtpByte0_x (v : BitVec 2) (p x : Bool) (cc : BitVec 4) : (rtpByte0 v p x cc).getLsbD 4 = x := by
  revert v p x cc; decide

@[simp] theorem rtpByte0_getElem_x (v : BitVec 2) (p x : Bool) (cc : BitVec 4) : (rtpByte0 v p x cc)[4] = x :=
  rtpByte0_x v p x cc

@[simp] theorem rtpByte0_cc (v : BitVec 2) (p x : Bool) (cc : BitVec 4) : (rtpByte0 v p x cc).extractLsb' 0 4 = cc :=
  extract_append_low (v ++ BitVec.ofBool p ++ BitVec.ofBool x) cc

theorem rtpByte0_fields (b : Byte) :
    rtpByte0 (b.extractLsb' 6 2) (b.getLsbD 5) (b.getLsbD 4) (b.extractLsb' 0 4) = b := by
  revert b; decide

/-! ## Command word -/

@[simp] theorem commandWord_kind (k : BitVec 2) (off : BitVec 8) : (commandWord k off).extractLsb' 14 2 = k :=
  extract_append_top k 0#6 off

@[simp] theorem commandWord_reserved (k : BitVec 2) (off : BitVec 8) : (commandWord k off).extractLsb' 8 6 = 0#6 :=
  extract_append_mid k 0#6 off

@[simp] theorem commandWord_off (k : BitVec 2) (off : BitVec 8) : (commandWord k off).extractLsb' 0 8 = off :=
  extract_append_low (k ++ 0#6) off

/-- A command word with no reserved bit set is put together from its fields. -/
theorem commandWord_fields (c : BitVec 16) (h : c.extractLsb' 8 6 = 0#6) :
    commandWord (c.extractLsb' 14 2) (c.extractLsb' 0 8) = c := by
  apply BitVec.eq_of_getLsbD_eq; intro i hi
  have hb : ∀ k, k < 6 → c.getLsbD (8 + k) = false := fun k hk => by
    have := congrArg (·.getLsbD k) h
    simpa [hk] using this
  show (c.extractLsb' 14 2 ++ 0#6 ++ c.extractLsb' 0 8).getLsbD i = c.getLsbD i
  rw [BitVec.getLsbD_append, BitVec.getLsbD_append]
  by_cases h8 : i < 8
  · simp [h8]
  · by_cases h14 : i - 8 < 6
    · have := hb (i - 8) h14
      rw [show 8 + (i - 8) = i by omega] at this
      simp [h8, h14, this]
    · simp [h8, h14, show 14 + (i - 8 - 6) = i by omega, show i - 8 - 6 < 2 by omega]

/-! ## Rows of a NAL header byte -/

/-- The free low bits of a type are put together with the row's fixed bits again (R86). -/
theorem type_row0 (t : BitVec 5) (h : t.toNat < 16) : 0#1 ++ t.setWidth 4 = t := by
  revert t; decide

theorem type_row1 (t : BitVec 5) (h : ¬ t.toNat < 16) (h' : t.toNat < 24) : 2#2 ++ t.setWidth 3 = t := by
  revert t; decide

theorem type_row26 (t : BitVec 5) (h : 26 ≤ t.toNat) (h' : t.toNat < 28) : 13#4 ++ t.setWidth 1 = t := by
  revert t; decide

theorem type_row30 (t : BitVec 5) (h : 30 ≤ t.toNat) : 15#4 ++ t.setWidth 1 = t := by
  revert t; decide

/-! ## 16-bit prefixes -/

/-- A big-endian 16-bit prefix reads back (`20_memory.md` R61). -/
theorem be16_append (v : BitVec 16) : v.extractLsb' 8 8 ++ v.extractLsb' 0 8 = v := by
  apply BitVec.eq_of_getLsbD_eq; intro i hi
  show (v.extractLsb' 8 8 ++ v.extractLsb' 0 8).getLsbD i = v.getLsbD i
  rw [BitVec.getLsbD_append]
  by_cases h8 : i < 8
  · simp [h8]
  · simp [h8, show 8 + (i - 8) = i by omega, show i - 8 < 8 by omega]

end Sys2Proof
end

