-- ==== Sys2Proof/Laws/Ops.lean ====
section
/-! SUPPORT. What each shared operation can do, said once: composition of outcomes, abandonment, the planner, the header
decode, the FU-A operations and the STAP-A loop. -/

namespace Sys2Proof.Machine

/-! ## Outcomes -/

@[simp] theorem andThen_next (t : State) (f : State → Result) : andThen (.next t) f = f t := rfl

/-- A composed step answers a next state only through a next state of its first part. -/
theorem andThen_eq_next {o : Result} {f : State → Result} {t : State} (h : andThen o f = .next t) :
    ∃ u, o = .next u ∧ f u = .next t := by
  cases o with
  | next u => exact ⟨u, rfl, h⟩
  | fault _ => cases h
  | refused _ => cases h

/-! ## Abandonment -/

variable (s : State)

theorem State.abandonIfActive_of_active (h : s.frag.active = true) :
    s.abandonIfActive = (s.raise .abandonedFragment).closeFrag := if_pos h

theorem State.abandonIfActive_of_idle (h : s.frag.active = false) : s.abandonIfActive = s := by
  simp [State.abandonIfActive, h]

/-- Abandonment changes the fragment, the error count and the event list, and nothing else. -/
theorem State.abandonIfActive_eq : s.abandonIfActive = { s with
    frag := if s.frag.active then Frag.idle else s.frag
    ctr := { s.ctr with decodeErrors := s.ctr.decodeErrors + if s.frag.active then 1 else 0 }
    res := { s.res with events := s.res.events ++ if s.frag.active then [.abandonedFragment] else [] } } := by
  cases h : s.frag.active
  · simp [s.abandonIfActive_of_idle h]
  · simp [s.abandonIfActive_of_active h, State.closeFrag, State.raise]

@[simp] theorem State.abandonIfActive_cfg : s.abandonIfActive.cfg = s.cfg := by rw [s.abandonIfActive_eq]
@[simp] theorem State.abandonIfActive_inputs : s.abandonIfActive.inputs = s.inputs := by rw [s.abandonIfActive_eq]
@[simp] theorem State.abandonIfActive_stopped : s.abandonIfActive.stopped = s.stopped := by rw [s.abandonIfActive_eq]
@[simp] theorem State.abandonIfActive_seq : s.abandonIfActive.seq = s.seq := by rw [s.abandonIfActive_eq]
@[simp] theorem State.abandonIfActive_plan : s.abandonIfActive.plan = s.plan := by rw [s.abandonIfActive_eq]
@[simp] theorem State.abandonIfActive_output : s.abandonIfActive.output = s.output := by rw [s.abandonIfActive_eq]
@[simp] theorem State.abandonIfActive_results : s.abandonIfActive.results = s.results := by rw [s.abandonIfActive_eq]
@[simp] theorem State.abandonIfActive_answers : s.abandonIfActive.answers = s.answers := by rw [s.abandonIfActive_eq]
@[simp] theorem State.abandonIfActive_dgram : s.abandonIfActive.dgram = s.dgram := by rw [s.abandonIfActive_eq]
@[simp] theorem State.abandonIfActive_w : s.abandonIfActive.w = s.w := by rw [s.abandonIfActive_eq]
@[simp] theorem State.abandonIfActive_nextStartCode : s.abandonIfActive.nextStartCode = s.nextStartCode := by
  rw [s.abandonIfActive_eq]; rfl

/-- After abandonment no fragment is open. -/
@[simp] theorem State.abandonIfActive_frag_active : s.abandonIfActive.frag.active = false := by
  rw [s.abandonIfActive_eq]; cases h : s.frag.active <;> simp [h, Frag.idle]

/-! ## The planner -/

/-- The four outcomes of `SC()` (`44_start_code.md` R160). -/
theorem Plan.next_fixed (p : Plan) (h : p.mode = .fixed ∨ p.exhausted = true) : p.next = (p.len, p) := by
  unfold Plan.next
  rw [if_neg]
  rcases h with h | h <;> simp [h]

theorem Plan.next_replay (p : Plan) (hm : p.mode = .replay) (he : p.exhausted = false) {n : ScLen}
    (hn : p.list[p.cursor]? = some n) : p.next = (n, { p with cursor := p.cursor + 1 }) := by
  simp [Plan.next, hm, he, hn]

theorem Plan.next_last (p : Plan) (hm : p.mode = .replay) (he : p.exhausted = false)
    (hn : p.list.length ≤ p.cursor) : p.next = (p.len, { p with exhausted := true }) := by
  simp [Plan.next, hm, he, List.getElem?_eq_none hn]

/-- `SC()` changes the cursor and the exhausted flag only. -/
theorem Plan.next_keeps (p : Plan) :
    p.next.2.mode = p.mode ∧ p.next.2.len = p.len ∧ p.next.2.list = p.list := by
  unfold Plan.next; split
  · split <;> simp
  · simp

/-- `SC()` never clears the exhausted flag. -/
theorem Plan.next_exhausted (p : Plan) (h : p.exhausted = true) : p.next.2.exhausted = true := by
  rw [p.next_fixed (.inr h)]; exact h

/-- `SC()` keeps the cursor inside the list. -/
theorem Plan.next_cursor (p : Plan) (h : p.cursor ≤ p.list.length) : p.next.2.cursor ≤ p.next.2.list.length := by
  unfold Plan.next; split
  · split
    · rename_i n hn
      have := (List.getElem?_eq_some_iff.mp hn).1
      simp; omega
    · simpa using h
  · exact h

/-- Every start code begins a record (`30_encoding.md` R90). -/
theorem startCode_cases (n : ScLen) : startCode n = startCode .three ∨ startCode n = startCode .four := by
  cases n <;> simp

theorem startsWith_startCode_append (n : ScLen) (b : Bytes) : StartsWithStartCode (startCode n ++ b) := by
  cases n
  · exact .inl (List.prefix_append _ _)
  · exact .inr (List.prefix_append _ _)

/-! ## The header decode -/

theorem payloadBounds_ok {d : Bytes} {w w' : Working} {hlen : Nat} {h12 : 12 ≤ hlen} {h : hlen ≤ d.length}
    (hw : payloadBounds d w hlen h12 h = .ok w') :
    ∃ pad : BitVec 8, pad.toNat ≤ d.length - hlen ∧
      w' = w.withBounds hlen pad (d.length - hlen - pad.toNat) := by
  unfold payloadBounds at hw
  split at hw
  · dsimp only at hw
    split at hw
    · cases hw
    · rename_i hp; cases hw; exact ⟨_, by omega, rfl⟩
  · cases hw; exact ⟨0, by simp, by simp⟩

/-- A header that decodes: the fields of the fixed header stay as unpacked, and the payload lies inside the datagram
(`40_rtp_header.md` R112). -/
theorem headerDecode_ok {c : Config} {d : Bytes} {w : Working} (h : headerDecode c d = .ok w) :
    ∃ (h12 : 12 ≤ d.length) (xlen : BitVec 16) (pad : BitVec 8) (hlen : Nat), 12 ≤ hlen ∧ hlen + pad.toNat ≤ d.length ∧
      w = ({ unpackFixed d h12 with xlen := xlen } : Working).withBounds hlen pad (d.length - hlen - pad.toNat) := by
  unfold headerDecode at h
  split at h
  · cases h
  · rename_i h12
    refine ⟨by omega, ?_⟩
    dsimp only at h
    split at h
    · split at h
      · cases h
      · split at h
        · cases h
        · rename_i hc
          obtain ⟨pad, hp, rfl⟩ := payloadBounds_ok h
          exact ⟨_, pad, _, by omega, by omega, rfl⟩
    · split at h
      · cases h
      · rename_i hd
        obtain ⟨pad, hp, rfl⟩ := payloadBounds_ok h
        exact ⟨_, pad, _, by omega, by omega, rfl⟩

/-- No header that decodes puts the payload outside the datagram (`00_scope.md` R10). -/
theorem headerDecode_bounds {c : Config} {d : Bytes} {w : Working} (h : headerDecode c d = .ok w) :
    12 ≤ d.length ∧ w.poff.toNat + w.plen.toNat ≤ d.length := by
  obtain ⟨h12, _, pad, hlen, _, hle, rfl⟩ := headerDecode_ok h
  have h1 := Nat.mod_le hlen (2 ^ 17)
  have h2 := Nat.mod_le (d.length - hlen - pad.toNat) (2 ^ 17)
  exact ⟨h12, by simp only [Working.withBounds, BitVec.toNat_ofNat]; omega⟩

/-- The widths of R20 hold `HLEN`, `POFF` and `PLEN` of every datagram that can be presented (`30_encoding.md` R84). -/
theorem Working.withBounds_toNat (w : Working) {hlen plen : Nat} (pad : BitVec 8) (h : hlen + plen ≤ maxDgramBytes) :
    (w.withBounds hlen pad plen).hlen.toNat = hlen ∧ (w.withBounds hlen pad plen).poff.toNat = hlen ∧
    (w.withBounds hlen pad plen).plen.toNat = plen := by
  unfold maxDgramBytes at h
  refine ⟨?_, ?_, ?_⟩ <;> simp only [Working.withBounds, BitVec.toNat_ofNat] <;> omega

/-- The header of a datagram that can be presented: `HLEN = POFF`, and the payload follows at least 12 bytes. -/
theorem headerDecode_exact {c : Config} {d : Bytes} {w : Working} (hd : d.length ≤ maxDgramBytes)
    (h : headerDecode c d = .ok w) : w.hlen.toNat = w.poff.toNat ∧ 12 ≤ w.poff.toNat := by
  obtain ⟨_, _, pad, hlen, h12, hle, rfl⟩ := headerDecode_ok h
  obtain ⟨h1, h2, -⟩ := Working.withBounds_toNat _ pad
    (show hlen + (d.length - hlen - pad.toNat) ≤ maxDgramBytes by omega)
  rw [h1, h2]; exact ⟨rfl, h12⟩

/-! ## FU-A -/

/-- The rebuilt header of a well-formed indicator is the original NAL header (`30_encoding.md` R88). -/
@[simp] theorem rebuiltHeader_nalHeader (f : Bool) (nri : BitVec 2) (t ot : BitVec 5) :
    rebuiltHeader (nalHeader f nri t) ot = nalHeader f nri ot := by
  have key : ∀ fui : Byte, ∀ ot : BitVec 5, rebuiltHeader fui ot = nalHeader (nalF fui) (nalNri fui) ot := by
    decide +kernel
  rw [key, nalF_nalHeader, nalNri_nalHeader]

/-- The two outcomes of `FuStart` (`42_fu_a.md` R141): a new buffer, or an overflow. -/
theorem State.fuStart_eq (frag : Bytes) : s.fuStart frag =
    if fragFits s.cfg (s.nextStartCode ++ s.w.rhdr :: frag).length then { s with
      frag := ⟨true, s.w.ot, s.w.rhdr, s.nextStartCode ++ s.w.rhdr :: frag⟩
      plan := s.plan.next.2
      ctr := { s.ctr with decodeErrors := s.ctr.decodeErrors + if s.frag.active then 1 else 0 }
      res := { s.res with events := s.res.events ++ if s.frag.active then [.abandonedFragment] else [] } }
    else { s with
      frag := if s.frag.active then Frag.idle else s.frag
      plan := s.plan.next.2
      ctr := { s.ctr with decodeErrors := (s.ctr.decodeErrors + if s.frag.active then 1 else 0) + 1 }
      res := { s.res with
        events := (s.res.events ++ if s.frag.active then [.abandonedFragment] else []) ++ [.fragmentOverflow] } } := by
  unfold State.fuStart
  rw [s.abandonIfActive_eq]
  rfl

/-- The FU-A operand decode of a row's own header bytes (`30_encoding.md` R87, R88). -/
theorem State.loadFu_eq (f : Bool) (nri : BitVec 2) (start fin r : Bool) (ot : BitVec 5) :
    s.loadFu (nalHeader f nri 28#5) (fuHeader start fin r ot) = { s with w := { s.w with
      fui := nalHeader f nri 28#5
      fuh := fuHeader start fin r ot
      s := start
      e := fin
      ot := ot
      rhdr := nalHeader f nri ot } } := by
  simp only [State.loadFu, fuHeader_s, fuHeader_e, fuHeader_ot, rebuiltHeader_nalHeader]

/-! ## STAP-A -/

/-- The unit length a prefix declares, as a number. -/
theorem ulen_toNat (hi lo : Byte) : (hi ++ lo : BitVec 16).toNat = 256 * hi.toNat + lo.toNat := by
  have h := BitVec.toNat_append hi lo
  have hlo := lo.isLt
  rw [show (hi ++ lo : BitVec 16).toNat = (hi ++ lo : BitVec (8 + 8)).toNat from rfl, h, ← Nat.shiftLeft_add_eq_or_of_lt hlo,
    Nat.shiftLeft_eq]
  omega

end Sys2Proof.Machine
end

