-- ==== Sys2Proof/Laws/PerInstr.lean ====
section
/-! SUPPORT. What is stated for every instruction, one lemma per constructor: the coded form of a well-formed
instruction decodes to it. -/

namespace Sys2Proof.Laws

/-- The coded form of a well-formed instruction decodes to that instruction. -/
def RoundTrip.Statement (i : Instr) : Prop := i.wellFormed = true → decodeCode (encode i) = .ok i

/-- A payload row's length check. -/
theorem RoundTrip.payload_fits {body : Bytes} (b : Byte) (h : body.length + 1 ≤ maxPayloadBytes) :
    ¬ (b :: body).length > maxPayloadBytes := by simp at *; omega

/-- The classifier level: the length check passes, so the row the type map gives is what the decoder answers. -/
theorem RoundTrip.decode_payload {i : Instr} {b : Byte} {body : Bytes} (h : body.length + 1 ≤ maxPayloadBytes)
    (hi : decodePayload (b :: body) = i) : decodeCode (.payload (b :: body)) = .ok i := by
  simp only [decodeCode, if_neg (payload_fits b h), hi]

/-- The FU-A level: the length and type checks pass. -/
theorem RoundTrip.decode_fu {i : Instr} {f : Bool} {nri : BitVec 2} {body : Bytes}
    (h : body.length + 1 ≤ maxPayloadBytes) (hi : decodeFu f nri body = i) :
    decodeCode (.fuPayload (nalHeader f nri 28#5 :: body)) = .ok i := by
  simp only [decodeCode, if_neg (payload_fits _ h), nalType_nalHeader, nalF_nalHeader, nalNri_nalHeader, if_true, hi]

/-- The transaction level, for a register write at an offset the interface carries. -/
theorem RoundTrip.decode_write {i : Instr} {off : BitVec 8} {v : Reg64} (h : offsetOk off = true)
    (hi : decodeWrite off v = i) : decodeCode (.host (writeTxn off v)) = .ok i := by
  simp [decodeCode, decodeTxn, writeTxn, h, hi]

theorem RoundTrip.rtpAcceptV2 (p x : Bool) (cc : BitVec 4) : Statement (.rtpAcceptV2 p x cc) := fun _ => by
  simp [decodeCode, encode, decodeVersion, versionCases]

theorem RoundTrip.rtpDropV0 (p x : Bool) (cc : BitVec 4) : Statement (.rtpDropV0 p x cc) := fun _ => by
  simp [decodeCode, encode, decodeVersion, versionCases]

theorem RoundTrip.rtpDropV1 (p x : Bool) (cc : BitVec 4) : Statement (.rtpDropV1 p x cc) := fun _ => by
  simp [decodeCode, encode, decodeVersion, versionCases]

theorem RoundTrip.rtpDropV3 (p x : Bool) (cc : BitVec 4) : Statement (.rtpDropV3 p x cc) := fun _ => by
  simp [decodeCode, encode, decodeVersion, versionCases]

theorem RoundTrip.type0_low (t : BitVec 4) : ((0#1 ++ t : BitVec 5).toNat < 16) ∧ (0#1 ++ t : BitVec 5).setWidth 4 = t := by
  revert t; decide

theorem RoundTrip.type1_low (t : BitVec 3) : ¬ ((2#2 ++ t : BitVec 5).toNat < 16) ∧ ((2#2 ++ t : BitVec 5).toNat < 24) ∧
    (2#2 ++ t : BitVec 5).setWidth 3 = t := by
  revert t; decide

theorem RoundTrip.type26_low (t : BitVec 1) : 25 < (13#4 ++ t : BitVec 5).toNat ∧ ((13#4 ++ t : BitVec 5).toNat < 28) ∧
    (13#4 ++ t : BitVec 5).setWidth 1 = t := by
  revert t; decide

theorem RoundTrip.type30_low (t : BitVec 1) : 29 < (15#4 ++ t : BitVec 5).toNat ∧
    (15#4 ++ t : BitVec 5).setWidth 1 = t := by
  revert t; decide

theorem RoundTrip.singleNalT0015 (f : Bool) (nri : BitVec 2) (t : BitVec 4) (body : Bytes) :
    Statement (.singleNalT0015 f nri t body) := fun h => by
  obtain ⟨h1, h2⟩ := type0_low t
  exact decode_payload (of_decide_eq_true h) (by simp [decodePayload, nalCases, h1, h2])

theorem RoundTrip.singleNalT1623 (f : Bool) (nri : BitVec 2) (t : BitVec 3) (body : Bytes) :
    Statement (.singleNalT1623 f nri t body) := fun h => by
  obtain ⟨h1, h2, h3⟩ := type1_low t
  exact decode_payload (of_decide_eq_true h) (by simp [decodePayload, nalCases, h1, h2, h3])

theorem RoundTrip.stapA (f : Bool) (nri : BitVec 2) (units : Bytes) : Statement (.stapA f nri units) := fun h =>
  decode_payload (of_decide_eq_true h) (by simp [decodePayload, nalCases])

theorem RoundTrip.unsupportedT25 (f : Bool) (nri : BitVec 2) (body : Bytes) :
    Statement (.unsupportedT25 f nri body) := fun h =>
  decode_payload (of_decide_eq_true h) (by simp [decodePayload, nalCases])

theorem RoundTrip.unsupportedT2627 (f : Bool) (nri : BitVec 2) (t : BitVec 1) (body : Bytes) :
    Statement (.unsupportedT2627 f nri t body) := fun h => by
  obtain ⟨h1, h2, h3⟩ := type26_low t
  refine decode_payload (of_decide_eq_true h) ?_
  simp only [decodePayload, nalCases, nalType_nalHeader, nalF_nalHeader, nalNri_nalHeader, h2, h3, if_true]
  rw [if_neg (by omega), if_neg (by omega), if_neg (by omega), if_neg (by omega)]

theorem RoundTrip.fuA (f : Bool) (nri : BitVec 2) (body : Bytes) : Statement (.fuA f nri body) := fun h =>
  decode_payload (of_decide_eq_true h) (by simp [decodePayload, nalCases])

theorem RoundTrip.unsupportedT29 (f : Bool) (nri : BitVec 2) (body : Bytes) :
    Statement (.unsupportedT29 f nri body) := fun h =>
  decode_payload (of_decide_eq_true h) (by simp [decodePayload, nalCases])

theorem RoundTrip.unsupportedT3031 (f : Bool) (nri : BitVec 2) (t : BitVec 1) (body : Bytes) :
    Statement (.unsupportedT3031 f nri t body) := fun h => by
  obtain ⟨h1, h3⟩ := type30_low t
  refine decode_payload (of_decide_eq_true h) ?_
  simp only [decodePayload, nalCases, nalType_nalHeader, nalF_nalHeader, nalNri_nalHeader, h3]
  rw [if_neg (by omega), if_neg (by omega), if_neg (by omega), if_neg (by omega), if_neg (by omega),
    if_neg (by omega), if_neg (by omega)]

theorem RoundTrip.emptyPayload : Statement .emptyPayload := fun _ => by
  simp [decodeCode, encode, decodePayload, nalCases]

theorem RoundTrip.fuAMiddle (f : Bool) (nri : BitVec 2) (r : Bool) (ot : BitVec 5) (frag : Bytes) :
    Statement (.fuAMiddle f nri r ot frag) := fun h =>
  decode_fu (of_decide_eq_true h) (by simp [decodeFu, fuCases])

theorem RoundTrip.fuAEnd (f : Bool) (nri : BitVec 2) (r : Bool) (ot : BitVec 5) (frag : Bytes) :
    Statement (.fuAEnd f nri r ot frag) := fun h =>
  decode_fu (of_decide_eq_true h) (by simp [decodeFu, fuCases])

theorem RoundTrip.fuAStart (f : Bool) (nri : BitVec 2) (r : Bool) (ot : BitVec 5) (frag : Bytes) :
    Statement (.fuAStart f nri r ot frag) := fun h =>
  decode_fu (of_decide_eq_true h) (by simp [decodeFu, fuCases])

theorem RoundTrip.fuAStartEnd (f : Bool) (nri : BitVec 2) (r : Bool) (ot : BitVec 5) (frag : Bytes) :
    Statement (.fuAStartEnd f nri r ot frag) := fun h =>
  decode_fu (of_decide_eq_true h) (by simp [decodeFu, fuCases])

theorem RoundTrip.fuATooShort (f : Bool) (nri : BitVec 2) : Statement (.fuATooShort f nri) := fun _ =>
  decode_fu (by decide) (by simp [decodeFu])

theorem RoundTrip.seqDuplicate : Statement .seqDuplicate := fun _ => by
  simp [decodeCode, encode, decodeSequence, seqCases]

theorem RoundTrip.seqInOrder : Statement .seqInOrder := fun _ => by
  simp [decodeCode, encode, decodeSequence, seqCases]

theorem RoundTrip.seqLost (delta : BitVec 16) : Statement (.seqLost delta) := fun h => by
  have h : 2 ≤ delta.toNat ∧ delta.toNat ≤ 32767 := of_decide_eq_true h
  simp only [decodeCode, encode, decodeSequence, seqCases]
  rw [if_neg (by omega), if_neg (by omega), if_pos (by omega)]

theorem RoundTrip.seqOutOfOrder (delta : BitVec 16) : Statement (.seqOutOfOrder delta) := fun h => by
  have h : 32768 ≤ delta.toNat := of_decide_eq_true h
  simp only [decodeCode, encode, decodeSequence, seqCases]
  rw [if_neg (by omega), if_neg (by omega), if_neg (by omega)]

theorem RoundTrip.seqFirst : Statement .seqFirst := fun _ => by
  simp [decodeCode, encode, decodeSequence, seqCases]

theorem RoundTrip.dgram (d : Bytes) : Statement (.dgram d) := fun h => by
  have h : d.length ≤ maxDgramBytes := of_decide_eq_true h
  have hlen : (BitVec.ofNat 17 d.length).toNat = d.length := by
    simp [maxDgramBytes] at *; omega
  simp only [decodeCode, encode, decodeTxn, dgramTxn, commandWord_kind, commandWord_reserved, commandWord_off, hlen]
  rw [if_neg (by decide), if_neg (by decide), if_pos trivial, if_neg (by decide), if_neg (by omega), if_neg (by simp)]

theorem RoundTrip.regRead (off : BitVec 8) : Statement (.regRead off) := fun h => by
  have h : offsetOk off = true := h
  simp [decodeCode, encode, decodeTxn, readTxn, h]

theorem RoundTrip.regWrite (off : BitVec 8) (v : Reg64) : Statement (.regWrite off v) := fun h => by
  simp only [Instr.wellFormed, Bool.and_eq_true, bne_iff_ne, ne_eq, Bool.or_eq_true, Bool.not_eq_true'] at h
  obtain ⟨⟨⟨h1, h2⟩, h3⟩, h4⟩ := h
  refine decode_write h1 ?_
  unfold decodeWrite
  by_cases h0 : off = 0x00#8
  · have h4 : (v.getLsbD 0 = false ∧ v.getLsbD 1 = false) ∧ v.getLsbD 2 = false := by
      rcases h4 with h4 | h4
      · exact absurd h0 h4
      · exact h4
    obtain ⟨⟨ha, hb⟩, hc⟩ := h4
    simp only [h0, ha, hb, hc, if_true, if_false, Bool.false_eq_true]
  · rw [if_neg h0, if_neg h2, if_neg h3]

theorem RoundTrip.reservedKind3 (low : BitVec 14) : Statement (.reservedKind3 low) := fun _ => by
  have h1 : (3#2 ++ low : BitVec (2 + 14)).extractLsb' 14 2 = 3#2 := extract_append_high 3#2 low
  have h2 : (3#2 ++ low : BitVec (2 + 14)).extractLsb' 0 14 = low := extract_append_low 3#2 low
  show (if (3#2 ++ low : BitVec (2 + 14)).extractLsb' 14 2 = 3#2 then
      Except.ok (Instr.reservedKind3 ((3#2 ++ low : BitVec (2 + 14)).extractLsb' 0 14)) else _) = _
  rw [if_pos h1, h2]

theorem RoundTrip.ctrlStop (v : Reg64) : Statement (.ctrlStop v) := fun h => by
  simp only [Instr.wellFormed, Bool.and_eq_true, Bool.not_eq_true'] at h
  obtain ⟨⟨h0, h1⟩, h2⟩ := h
  exact decode_write (by decide) (by simp only [decodeWrite, h0, h1, h2, if_true, if_false, Bool.false_eq_true])

theorem RoundTrip.ctrlSessionReset (v : Reg64) : Statement (.ctrlSessionReset v) := fun h => by
  have h : v.getLsbD 1 = true := h
  exact decode_write (by decide) (by simp only [decodeWrite, h, if_true])

theorem RoundTrip.ctrlReplayClear (v : Reg64) : Statement (.ctrlReplayClear v) := fun h => by
  simp only [Instr.wellFormed, Bool.and_eq_true, Bool.not_eq_true'] at h
  obtain ⟨h2, h1⟩ := h
  exact decode_write (by decide) (by simp only [decodeWrite, h1, h2, if_true, if_false, Bool.false_eq_true])

theorem RoundTrip.scCfgWrite (v : Reg64) : Statement (.scCfgWrite v) := fun _ =>
  decode_write (by decide) (by simp [decodeWrite])

theorem RoundTrip.replayPushWrite (v : Reg64) : Statement (.replayPushWrite v) := fun _ =>
  decode_write (by decide) (by simp [decodeWrite])

end Sys2Proof.Laws
end

