-- ==== Sys2Proof/Laws/Rows.lean ====
section
/-! SUPPORT. What a row of the classifier or of FU-A can do, said once: `StageEffect` is kept by every shared operation and
composes, and `payload_row` gives it for every row. -/

namespace Sys2Proof.Machine

/-! ## The planner over several calls -/

theorem Plan.take_add (m n : Nat) (p : Plan) : (Plan.take (m+n) p).2 = (Plan.take n (Plan.take m p).2).2 := by
  induction m generalizing p with
  | zero => simp [Plan.take]
  | succ m ih => rw [Nat.succ_add]; simp [Plan.take, ih]

/-- The start codes of `m + n` calls are those of `m` calls, then those of `n`. -/
theorem Plan.take_add_codes (m n : Nat) (p : Plan) :
    (Plan.take (m + n) p).1 = (Plan.take m p).1 ++ (Plan.take n (Plan.take m p).2).1 := by
  induction m generalizing p with
  | zero => simp [Plan.take]
  | succ m ih => rw [Nat.succ_add]; simp [Plan.take, ih]

/-- Every call returns one start code. -/
@[simp] theorem Plan.take_length (n : Nat) (p : Plan) : (Plan.take n p).1.length = n := by
  induction n generalizing p with
  | zero => rfl
  | succ n ih => simp [Plan.take, ih]

/-- `SC()` calls keep the mode, the length and the list. -/
theorem Plan.take_keeps (n : Nat) (p : Plan) : (Plan.take n p).2.mode = p.mode ∧ (Plan.take n p).2.len = p.len ∧
    (Plan.take n p).2.list = p.list := by
  induction n generalizing p with
  | zero => simp [Plan.take]
  | succ n ih => simp [Plan.take, ih, Plan.next_keeps]

/-- `SC()` calls keep the cursor inside the list. -/
theorem Plan.take_cursor (n : Nat) (p : Plan) (h : p.cursor ≤ p.list.length) :
    (Plan.take n p).2.cursor ≤ (Plan.take n p).2.list.length := by
  induction n generalizing p with
  | zero => exact h
  | succ n ih => exact ih _ (p.next_cursor h)

/-- `SC()` calls never clear the exhausted flag. -/
theorem Plan.take_exhausted (n : Nat) (p : Plan) (h : p.exhausted = true) : (Plan.take n p).2.exhausted = true := by
  induction n generalizing p with
  | zero => exact h
  | succ n ih => exact ih _ (p.next_exhausted h)

/-! ## What a stage can do -/

/-- Everything a stage after the sequence tracker can do: records are appended, each counted; one of the event lists `evs`
is appended, each event counted; the planner makes some `SC()` calls; the fragment stays well formed; the sequence
state, the host's side and the other counters stay. -/
structure StageEffect (evs : List (List Event)) (s t : State) : Prop where
  cfg : t.cfg = s.cfg
  inputs : t.inputs = s.inputs
  stopped : t.stopped = s.stopped
  seq : t.seq = s.seq
  results : t.results = s.results
  answers : t.answers = s.answers
  dgram : t.dgram = s.dgram
  plan : ∃ n, t.plan = (Plan.take n s.plan).2
  frag : s.frag.Ok s.cfg → t.frag.Ok t.cfg
  out : ∃ recs, t.output = s.output ++ recs ∧ (s.frag.Ok s.cfg → ∀ b ∈ recs, StartsWithStartCode b) ∧
    t.res.emitted = s.res.emitted + recs.length ∧
    t.ctr.nalUnits = s.ctr.nalUnits + BitVec.ofNat 64 recs.length
  ev : ∃ e ∈ evs, t.res.events = s.res.events ++ e ∧
    t.ctr.decodeErrors = s.ctr.decodeErrors + BitVec.ofNat 64 e.length
  res : t.res.status = s.res.status ∧ t.res.seqClass = s.res.seqClass ∧ t.res.lostN = s.res.lostN
  ctr : t.ctr.packets = s.ctr.packets ∧ t.ctr.payloadBytes = s.ctr.payloadBytes ∧
    t.ctr.lost = s.ctr.lost ∧ t.ctr.outOfOrder = s.ctr.outOfOrder ∧
    t.ctr.duplicate = s.ctr.duplicate ∧ t.ctr.markers = s.ctr.markers

/-- The event lists a stage may append can be widened. -/
theorem StageEffect.mono {a b : List (List Event)} {s t : State} (h : ∀ x ∈ a, x ∈ b) (g : StageEffect a s t) :
    StageEffect b s t := by
  obtain ⟨e, he, he'⟩ := g.ev
  exact { g with ev := ⟨e, h e he, he'⟩ }

/-- Two stages one after the other append their events in order. -/
theorem StageEffect.trans {a b : List (List Event)} {s t u : State} (g : StageEffect a s t) (h : StageEffect b t u) :
    StageEffect (a.flatMap fun x => b.map (x ++ ·)) s u := by
  obtain ⟨g1, g2, g3, g4, g5, g6, g7, ⟨n, g8⟩, g9, ⟨r, o1, o2, o3, o4⟩, ⟨e, he, e1, e2⟩, g12, g13⟩ := g
  obtain ⟨h1, h2, h3, h4, h5, h6, h7, ⟨m, h8⟩, h9, ⟨r', p1, p2, p3, p4⟩, ⟨e', he', f1, f2⟩, h12, h13⟩ := h
  refine ⟨h1.trans g1, h2.trans g2, h3.trans g3, h4.trans g4, h5.trans g5, h6.trans g6, h7.trans g7,
    ⟨n + m, by rw [Plan.take_add, h8, g8]⟩, h9 ∘ g9, ⟨r ++ r', by simp [p1, o1], fun x y hy => ?_, ?_, ?_⟩,
    ⟨e ++ e', ?_, by simp [f1, e1], ?_⟩, ?_, ?_⟩
  · exact (List.mem_append.mp hy).elim (o2 x y) (p2 (g9 x) y)
  · simp; omega
  · rw [p4, o4]; simp [BitVec.ofNat_add, BitVec.add_assoc]
  · simp; exact ⟨_, he, _, he', rfl⟩
  · rw [f2, e2]; simp [BitVec.ofNat_add, BitVec.add_assoc]
  · exact ⟨h12.1.trans g12.1, h12.2.1.trans g12.2.1, h12.2.2.trans g12.2.2⟩
  · obtain ⟨a1, a2, a3, a4, a5, a6⟩ := g13
    obtain ⟨b1, b2, b3, b4, b5, b6⟩ := h13
    exact ⟨b1.trans a1, b2.trans a2, b3.trans a3, b4.trans a4, b5.trans a5, b6.trans a6⟩

/-- A stage that raises nothing and emits nothing. -/
theorem StageEffect.silent {s t : State} (n : Nat)
    (h : t = { s with
      w := t.w
      frag := t.frag
      plan := (Plan.take n s.plan).2
      ctr := { s.ctr with stapaUnits := t.ctr.stapaUnits } })
    (hf : s.frag.Ok s.cfg → t.frag.Ok s.cfg) : StageEffect [[]] s t := by
  have hc : t.cfg = s.cfg := by rw [h]
  refine ⟨hc, ?_, ?_, ?_, ?_, ?_, ?_, ⟨n, ?_⟩, by rw [hc]; exact hf, ⟨[], ?_⟩, ⟨[], ?_⟩, ?_, ?_⟩ <;> rw [h] <;> simp

/-- A stage that raises nothing and emits one record. -/
theorem StageEffect.record {s t : State} (n : Nat) (b : Bytes)
    (h : t = { s with
      frag := t.frag
      plan := (Plan.take n s.plan).2
      output := s.output ++ [b]
      ctr := { s.ctr with nalUnits := s.ctr.nalUnits + 1, fuaComplete := t.ctr.fuaComplete }
      res := { s.res with emitted := s.res.emitted + 1 } })
    (hf : s.frag.Ok s.cfg → t.frag.Ok s.cfg) (hb : s.frag.Ok s.cfg → StartsWithStartCode b) :
    StageEffect [[]] s t := by
  have hc : t.cfg = s.cfg := by rw [h]
  refine ⟨hc, ?_, ?_, ?_, ?_, ?_, ?_, ⟨n, ?_⟩, by rw [hc]; exact hf, ⟨[b], ?_, fun x y hy => ?_, ?_, ?_⟩, ⟨[], ?_⟩, ?_, ?_⟩
  case refine_9 => rw [List.mem_singleton.mp hy]; exact hb x
  case refine_14 => rw [h]; exact ⟨rfl, rfl, rfl, rfl, rfl, rfl⟩
  all_goals rw [h]
  all_goals simp

/-! ## The shared operations -/

theorem StageEffect.refl (s : State) : StageEffect [[]] s s := .silent 0 rfl id

theorem StageEffect.raise (s : State) (ev : Event) : StageEffect [[ev]] s (s.raise ev) :=
  ⟨rfl, rfl, rfl, rfl, rfl, rfl, rfl, ⟨0, rfl⟩, id, ⟨[], by simp⟩, ⟨[ev], by simp⟩, ⟨rfl, rfl, rfl⟩,
    ⟨rfl, rfl, rfl, rfl, rfl, rfl⟩⟩

/-- The cleared fragment state is well formed. -/
theorem Frag.idle_ok (c : Config) : Frag.Ok c Frag.idle := ⟨fun _ => rfl, fun h => by cases h⟩

theorem StageEffect.closeFrag (s : State) : StageEffect [[]] s s.closeFrag := .silent 0 rfl fun _ => Frag.idle_ok _

theorem StageEffect.advancePlan (s : State) : StageEffect [[]] s s.advancePlan := .silent 1 rfl id

theorem StageEffect.countStapa (s : State) : StageEffect [[]] s s.countStapa := .silent 0 rfl id

theorem StageEffect.setUlen (s : State) (ulen : BitVec 16) : StageEffect [[]] s (s.setUlen ulen) := .silent 0 rfl id

theorem StageEffect.setOff (s : State) (off : BitVec 17) : StageEffect [[]] s (s.setOff off) := .silent 0 rfl id

theorem StageEffect.loadFu (s : State) (fui fuh : Byte) : StageEffect [[]] s (s.loadFu fui fuh) := .silent 0 rfl id

theorem StageEffect.setW (s : State) (w : Working) : StageEffect [[]] s { s with w := w } := .silent 0 rfl id

theorem StageEffect.emitNal (s : State) (nal : Bytes) : StageEffect [[]] s (s.emitNal nal) :=
  .record 1 _ rfl id fun _ => startsWith_startCode_append _ _

theorem StageEffect.fuEnd (s : State) (hf : s.frag.active = true) : StageEffect [[]] s s.fuEnd := by
  refine .record 0 _ rfl (fun _ => Frag.idle_ok _) fun h => ?_
  rcases (h.2 hf).1 with h | h
  · exact .inl ((List.prefix_append _ _).trans h)
  · exact .inr ((List.prefix_append _ _).trans h)

theorem StageEffect.abandon (s : State) : StageEffect [[], [.abandonedFragment]] s s.abandonIfActive := by
  cases h : s.frag.active
  · rw [s.abandonIfActive_of_idle h]; exact (refl s).mono (by simp)
  · rw [s.abandonIfActive_of_active h]; exact ((raise s _).trans (closeFrag _)).mono (by simp)

theorem StageEffect.stapLoop (n : Nat) (b : Bytes) (s : State) :
    StageEffect [[], [.stapLengthOverflow]] s (s.stapLoop n b) := by
  induction n generalizing b s with
  | zero => unfold State.stapLoop; exact (refl s).mono (by simp)
  | succ n ih =>
    unfold State.stapLoop
    split
    · exact (refl s).mono (by simp)
    · exact (refl s).mono (by simp)
    · exact (raise s _).mono (by simp)
    · rename_i heq
      cases heq
      dsimp only
      split
      · exact ((setUlen s _).trans (raise _ _)).mono (by simp)
      · exact ((((setUlen s _).trans (emitNal _ _)).trans (countStapa _)).trans (setOff _ _)).trans (ih _ _) |>.mono (by simp)

theorem StageEffect.fuStart (s : State) (frag : Bytes) (hw : s.w.ot = nalType s.w.rhdr) :
    StageEffect [[], [.abandonedFragment], [.fragmentOverflow], [.abandonedFragment, .fragmentOverflow]] s
      (s.fuStart frag) := by
  have h := (abandon s).trans (advancePlan _)
  unfold State.fuStart
  dsimp only
  split
  · rename_i hfit
    have hopen : StageEffect [[]] s.abandonIfActive.advancePlan { s.abandonIfActive.advancePlan with
        frag := ⟨true, s.abandonIfActive.advancePlan.w.ot, s.abandonIfActive.advancePlan.w.rhdr,
          s.abandonIfActive.nextStartCode ++ s.abandonIfActive.w.rhdr :: frag⟩ } := by
      refine .silent 0 rfl fun _ => ⟨fun h => by simp at h, fun _ => ⟨?_, by simpa [State.advancePlan] using hw, hfit⟩⟩
      have key : ∀ (n : ScLen) (h : Byte), startCode .three ++ [h] <+: startCode n ++ h :: frag ∨
          startCode .four ++ [h] <+: startCode n ++ h :: frag := by
        intro n h; cases n
        · exact .inl ⟨frag, by simp [startCode]⟩
        · exact .inr ⟨frag, by simp [startCode]⟩
      exact key _ _
    exact (h.trans hopen).mono (by simp)
  · exact (h.trans (raise _ _)).mono (by simp)

theorem StageEffect.fuCont (s : State) (frag : Bytes) :
    StageEffect [[], [.fuContinuationWithoutStart], [.fragmentOverflow]] s (s.fuCont frag).2 ∧
    ((s.fuCont frag).1 = true → (s.fuCont frag).2.frag.active = true ∧ StageEffect [[]] s (s.fuCont frag).2) := by
  unfold State.fuCont
  split
  · rename_i ha
    split
    · rename_i hfit
      have happ : StageEffect [[]] s { s with frag := { s.frag with acc := s.frag.acc ++ frag } } := by
        refine .silent 0 rfl fun h => ⟨fun h' => by simp [ha] at h', fun _ => ⟨?_, (h.2 ha).2.1, by simpa using hfit⟩⟩
        rcases (h.2 ha).1 with h | h
        · exact .inl (h.trans (List.prefix_append _ _))
        · exact .inr (h.trans (List.prefix_append _ _))
      exact ⟨happ.mono (by simp), fun _ => ⟨ha, happ⟩⟩
    · exact ⟨((raise s _).trans (closeFrag _)).mono (by simp), fun h => by simp at h⟩
  · exact ⟨(raise s _).mono (by simp), fun h => by simp at h⟩

/-! ## The rows -/

/-- The FU-A operands hold the type of the rebuilt header (`30_encoding.md` R88). -/
theorem loadFu_ot (s : State) (f : Bool) (nri : BitVec 2) (start fin r : Bool) (ot : BitVec 5) :
    (s.loadFu (nalHeader f nri 28#5) (fuHeader start fin r ot)).w.ot =
      nalType (s.loadFu (nalHeader f nri 28#5) (fuHeader start fin r ot)).w.rhdr := by
  simp [State.loadFu]

/-- The rows of FU-A. -/
def isFuRow : Instr → Bool
  | .fuAMiddle .. | .fuAEnd .. | .fuAStart .. | .fuAStartEnd .. | .fuATooShort .. => true
  | _ => false

/-- The rows of the classifier and of FU-A. -/
def isPayloadRow : Instr → Bool
  | .singleNalT0015 .. | .singleNalT1623 .. | .stapA .. | .unsupportedT25 .. | .unsupportedT2627 .. | .fuA ..
  | .unsupportedT29 .. | .unsupportedT3031 .. | .emptyPayload => true
  | i => isFuRow i

/-- Every FU-A row completes, with the effect of a stage. -/
theorem fu_row (s : State) (i : Instr) (hi : isFuRow i = true) :
    ∃ t, exec i s = .next t ∧ StageEffect allowedEvents s t := by
  have hcont : ∀ u v fr, StageEffect allowedEvents s ((s.loadFu u v).fuCont fr).2 := fun u v fr =>
    ((StageEffect.loadFu s u v).trans (StageEffect.fuCont _ fr).1).mono (by simp [allowedEvents])
  cases i <;> simp only [isFuRow, Bool.false_eq_true] at hi
  case fuATooShort => exact ⟨_, rfl, (StageEffect.raise s _).mono (by simp [allowedEvents])⟩
  case fuAStart =>
    exact ⟨_, rfl, ((StageEffect.loadFu s _ _).trans (StageEffect.fuStart _ _ (loadFu_ot ..))).mono
      (by simp [allowedEvents])⟩
  case fuAStartEnd f nri r ot frag =>
    refine ⟨_, rfl, ?_⟩
    have h := (StageEffect.loadFu s _ _).trans (StageEffect.fuStart _ frag (loadFu_ot s f nri true true r ot))
    unfold State.fuEndIfActive
    split
    · rename_i ha
      exact (h.trans (StageEffect.fuEnd _ ha)).mono (by simp [allowedEvents])
    · exact h.mono (by simp [allowedEvents])
  case fuAMiddle => exact ⟨_, rfl, hcont _ _ _⟩
  case fuAEnd =>
    refine ⟨_, rfl, ?_⟩
    split
    · rename_i h
      have h' := (StageEffect.fuCont _ _).2 h
      unfold State.fuEndIfActive
      rw [if_pos h'.1]
      exact (((StageEffect.loadFu s _ _).trans h'.2).trans (StageEffect.fuEnd _ h'.1)).mono (by simp [allowedEvents])
    · exact hcont _ _ _

/-- Every row of the classifier and of FU-A completes, with the effect of a stage. -/
theorem payload_row (s : State) (i : Instr) (hi : isPayloadRow i = true) :
    ∃ t, exec i s = .next t ∧ StageEffect allowedEvents s t := by
  have hsingle : ∀ pl, StageEffect allowedEvents s (s.singleNal pl) := fun pl =>
    ((StageEffect.abandon s).trans (StageEffect.emitNal _ _)).mono (by simp [allowedEvents])
  have hun : StageEffect allowedEvents s s.unsupported :=
    ((StageEffect.abandon s).trans (StageEffect.raise _ _)).mono (by simp [allowedEvents])
  cases i <;> simp only [isPayloadRow, isFuRow, Bool.false_eq_true] at hi
  case singleNalT0015 => exact ⟨_, rfl, hsingle _⟩
  case singleNalT1623 => exact ⟨_, rfl, hsingle _⟩
  case unsupportedT25 => exact ⟨_, rfl, hun⟩
  case unsupportedT2627 => exact ⟨_, rfl, hun⟩
  case unsupportedT29 => exact ⟨_, rfl, hun⟩
  case unsupportedT3031 => exact ⟨_, rfl, hun⟩
  case emptyPayload => exact ⟨_, rfl, (StageEffect.raise s _).mono (by simp [allowedEvents])⟩
  case stapA =>
    exact ⟨_, rfl, (((StageEffect.abandon s).trans (StageEffect.setOff _ _)).trans (StageEffect.stapLoop _ _ _)).mono
      (by simp [allowedEvents])⟩
  case fuA f nri body =>
    cases body with
    | nil => exact fu_row s (.fuATooShort f nri) rfl
    | cons fuh frag =>
      simp only [exec, execFuA, fuCases]
      split_ifs
      · exact fu_row s (.fuAStartEnd f nri _ _ frag) rfl
      · exact fu_row s (.fuAStart f nri _ _ frag) rfl
      · exact fu_row s (.fuAEnd f nri _ _ frag) rfl
      · exact fu_row s (.fuAMiddle f nri _ _ frag) rfl
  all_goals exact fu_row s _ rfl

end Sys2Proof.Machine
end

