-- ==== Sys2Proof/Laws/Steps.lean ====
section
/-! SUPPORT. What the tracker, a datagram, a register write and a step can do, each said once. -/

namespace Sys2Proof.Machine

/-! ## The tracker and the accepted packet -/

/-- Every payload decodes to a row of the classifier. -/
theorem isPayloadRow_decode (pl : Bytes) : isPayloadRow (decodePayload pl) = true := by
  unfold decodePayload nalCases
  cases pl with
  | nil => rfl
  | cons b body => dsimp only; split_ifs <;> rfl

/-- The classifier runs the row its decoder answers, with `NTYPE` written (`41_nal_classifier.md` R130). -/
theorem classify_eq (pl : Bytes) (s : State) : classify pl s = exec (decodePayload pl) (s.setNtype pl) := by
  unfold classify decodePayload nalCases
  cases pl with
  | nil => rfl
  | cons b body => dsimp only; split_ifs <;> rfl

/-- The classifier always completes, with the effect of a stage. -/
theorem classify_stage (pl : Bytes) (s : State) : ∃ t, classify pl s = .next t ∧ StageEffect allowedEvents s t := by
  obtain ⟨t, ht, h⟩ := payload_row (s.setNtype pl) _ (isPayloadRow_decode pl)
  refine ⟨t, by rw [classify_eq, ht], StageEffect.mono (by simp) (StageEffect.trans (a := [[]]) ?_ h)⟩
  cases pl
  · exact StageEffect.refl s
  · exact StageEffect.setW s _

/-- The tracker runs the row its decoder answers (`45_sequence.md` R170). -/
theorem observe_eq (s : State) : observe s = exec (decodeSequence s.seqDelta) s := by
  unfold observe decodeSequence seqCases
  cases s.seqDelta with
  | none => rfl
  | some d => dsimp only; split_ifs <;> rfl

/-- The state the tracker leaves: `SEQ_LAST` follows the packet, the record gets a class and a count. -/
def State.tracked (s : State) (ctr : Counters) (cls : SeqClass) (n : Nat) : State :=
  { s with ctr := ctr, seq := ⟨true, s.w.seq⟩, res := { s.res with seqClass := cls, lostN := n } }

/-- What `Observe` can do (R170 to R176): at most one of the three sequence counters moves. -/
theorem observe_cases (s : State) : ∃ ctr cls n, observe s = .next (s.tracked ctr cls n) ∧
    (ctr = s.ctr ∨ (∃ k, ctr = { s.ctr with duplicate := k }) ∨ (∃ k, ctr = { s.ctr with lost := k }) ∨
      ∃ k, ctr = { s.ctr with outOfOrder := k }) ∧
    cls ≠ .none ∧ (cls ≠ .lost → n = 0) ∧ (cls = .lost → 1 ≤ n ∧ n ≤ 32766) := by
  unfold observe State.seqDelta
  by_cases hv : s.seq.valid = true
  · rw [if_pos hv]
    unfold seqCases
    dsimp only
    split_ifs
    · exact ⟨{ s.ctr with duplicate := s.ctr.duplicate + 1 }, .duplicate, 0,
        by simp [execSeqDuplicate, State.noteSeq, State.tracked, hv], .inr (.inl ⟨_, rfl⟩), by simp⟩
    · exact ⟨s.ctr, .inOrder, 0, by simp [execSeqInOrder, State.noteSeq, State.tracked, hv], .inl rfl, by simp⟩
    · exact ⟨{ s.ctr with lost := s.ctr.lost + BitVec.ofNat 64 ((s.w.seq - s.seq.last).toNat - 1) }, .lost,
        (s.w.seq - s.seq.last).toNat - 1, by simp only [execSeqLost, State.noteSeq, State.tracked, hv],
        .inr (.inr (.inl ⟨_, rfl⟩)), by simp, by simp, fun _ => by omega⟩
    · exact ⟨{ s.ctr with outOfOrder := s.ctr.outOfOrder + 1 }, .outOfOrder, 0,
        by simp only [execSeqOutOfOrder, State.noteSeq, State.tracked, hv], .inr (.inr (.inr ⟨_, rfl⟩)), by simp⟩
  · rw [if_neg hv]
    exact ⟨s.ctr, .inOrder, 0, rfl, .inl rfl, by simp⟩

/-- What an accepted packet can do: count, track, then the effect of a stage. -/
theorem accept_cases (s : State) (p x : Bool) (cc : BitVec 4) 
    (h : s.w.poff.toNat + s.w.plen.toNat ≤ s.dgram.length) :
    ∃ u t, observe s.acceptCounters = .next u ∧ exec (.rtpAcceptV2 p x cc) s = .next t ∧
      StageEffect allowedEvents u t := by
  obtain ⟨ctr, cls, n, ho, -⟩ := observe_cases s.acceptCounters
  obtain ⟨t, ht, hst⟩ := classify_stage
    (sub s.dgram s.w.poff.toNat (s.w.poff.toNat + s.w.plen.toNat)) (s.acceptCounters.tracked ctr cls n)
  exact ⟨_, t, ho, by simp only [exec, execRtpAcceptV2, State.payload?, if_pos h, ho, andThen_next, ht], hst⟩

/-! ## The datagram -/

/-- `HeaderDecode` never reports `ACCEPTED` as its error. -/
theorem headerDecode_error {c : Config} {d : Bytes} {st : Status} (h : headerDecode c d = .error st) :
    st ≠ .accepted := by
  have pb : ∀ w hl a b, payloadBounds d w hl a b = .error st → st ≠ .accepted := by
    intro w hl a b e; unfold payloadBounds at e; dsimp only at e; split_ifs at e; cases e; simp
  unfold headerDecode at h
  dsimp only at h
  split_ifs at h
  · cases h; simp
  · cases h; simp
  · cases h; unfold extOverrunStatus; cases c.extOverrun <;> simp
  · exact pb _ _ _ _ h
  · cases h; simp
  · exact pb _ _ _ _ h

/-- The stop check comes first (`40_rtp_header.md` R119). -/
theorem runDatagram_stopped (s : State) (d : Bytes) (h : s.stopped = true) :
    runDatagram d s = .next (s.setStatus .stopped) := by
  unfold runDatagram; rw [if_pos h]

/-- Then the header (R112). -/
theorem runDatagram_error (s : State) (d : Bytes) (h : s.stopped = false) {st : Status}
    (hd : headerDecode s.cfg d = .error st) : runDatagram d s = .next (s.setStatus st) := by
  unfold runDatagram; rw [if_neg (by simp [h]), hd]

/-- Then the version (R115). -/
theorem runDatagram_drop (s : State) (d : Bytes) (h : s.stopped = false) {w : Working}
    (hd : headerDecode s.cfg d = .ok w) (hv : w.v ≠ 2#2) :
    runDatagram d s = .next (State.dropVersion { s with w := w }) := by
  unfold runDatagram; rw [if_neg (by simp [h]), hd]
  unfold runVersion versionCases; dsimp only; rw [if_neg hv]; split_ifs <;> rfl

/-- An accepted packet is run by the accepting row. -/
theorem runDatagram_accept (s : State) (d : Bytes) (h : s.stopped = false) {w : Working}
    (hd : headerDecode s.cfg d = .ok w) (hv : w.v = 2#2) :
    runDatagram d s = exec (.rtpAcceptV2 w.p w.x w.cc) { s with w := w } := by
  unfold runDatagram; rw [if_neg (by simp [h]), hd]
  unfold runVersion versionCases; dsimp only; rw [if_pos hv]; rfl

/-- What the pipeline can do: set a status and working registers, or run an accepted packet. -/
theorem runDatagram_cases (s : State) (d : Bytes) (hd : s.dgram = d) : ∃ t, runDatagram d s = .next t ∧
    ((∃ st, st ≠ .accepted ∧ ∃ w, t = { s with w := w, res := { s.res with status := st } }) ∨
     (s.stopped = false ∧ ∃ w u, headerDecode s.cfg d = .ok w ∧ w.v = 2#2 ∧
      observe ({ s with w := w } : State).acceptCounters = .next u ∧ StageEffect allowedEvents u t)) := by
  rcases Bool.eq_false_or_eq_true s.stopped with hs | hs
  · exact ⟨_, runDatagram_stopped s d hs, .inl ⟨.stopped, by simp, s.w, rfl⟩⟩
  · cases hh : headerDecode s.cfg d with
    | error st => exact ⟨_, runDatagram_error s d hs hh, .inl ⟨st, headerDecode_error hh, s.w, rfl⟩⟩
    | ok w =>
      by_cases hv : w.v = 2#2
      · obtain ⟨u, t, hu, ht, g⟩ := accept_cases { s with w := w } w.p w.x w.cc (hd ▸ (headerDecode_bounds hh).2)
        exact ⟨t, by rw [runDatagram_accept s d hs hh hv, ht], .inr ⟨hs, w, u, rfl, hv, hu, g⟩⟩
      · exact ⟨_, runDatagram_drop s d hs hh hv, .inl ⟨.versionDropped, by simp, w, rfl⟩⟩

/-- What a `DGRAM` that completes can do: a rejected datagram sets a status, an accepted one is counted, tracked and
classified; then the result record is closed. -/
theorem dgram_cases {s t : State} {d : Bytes} (h : exec (.dgram d) s = .next t) : ∃ t0, t = t0.resultOut ∧
    ((∃ st, st ≠ .accepted ∧ ∃ w,
        t0 = { s.openDgram d with w := w, res := { ResultRecord.start with status := st } }) ∨
     (s.stopped = false ∧ ∃ w u, headerDecode s.cfg d = .ok w ∧ w.v = 2#2 ∧
      observe ({ s.openDgram d with w := w } : State).acceptCounters = .next u ∧ StageEffect allowedEvents u t0)) := by
  simp only [exec, execDgram] at h
  split_ifs at h
  obtain ⟨t0, ht, hc⟩ := runDatagram_cases (s.openDgram d) d rfl
  rw [ht] at h; cases h
  exact ⟨t0, rfl, hc⟩

/-! ## Register writes -/

/-- A decoded register write is the register write (`46_host_commands.md` R181). -/
theorem exec_decodeWrite (off : BitVec 8) (v : Reg64) (s : State) (h : offsetOk off = true) :
    exec (decodeWrite off v) s = .next (s.regWrite off v) := by
  unfold decodeWrite
  split_ifs with a b c d e f
  · simp [exec, execCtrlSessionReset, State.regWrite, a]
  · simp [exec, execCtrlReplayClear, State.regWrite, a]
  · simp [exec, execCtrlStop, State.regWrite, a]
  · simp [exec, execRegWrite, h]
  · simp [exec, execScCfgWrite, State.regWrite, e]
  · simp [exec, execReplayPushWrite, State.regWrite, f]
  · simp [exec, execRegWrite, h]

/-- What a register write can do: a `CTRL` write, a change of `SC_CFG`, one more recorded length, or nothing. -/
theorem regWrite_cases (off : BitVec 8) (v : Reg64) (s : State) :
    (off = 0#8 ∧ s.regWrite off v = s.writeCtrl v) ∨
    (∃ m l, s.regWrite off v = { s with plan := { s.plan with mode := m, len := l } }) ∨
    (∃ n, s.plan.list.length < s.cfg.replayCap ∧
      s.regWrite off v = { s with plan := { s.plan with list := s.plan.list ++ [n] } }) ∨
    s.regWrite off v = s := by
  unfold State.regWrite
  split_ifs with a b c
  · exact .inl ⟨a, rfl⟩
  · exact .inr (.inl ⟨_, _, rfl⟩)
  · unfold State.replayPush
    split_ifs with d
    · exact .inr (.inr (.inl ⟨_, d, rfl⟩))
    · exact .inr (.inr (.inl ⟨_, d, rfl⟩))
    all_goals exact .inr (.inr (.inr rfl))
  · exact .inr (.inr (.inr rfl))

/-! ## The step -/

/-- The transactions that decode, and what they decode to (`30_encoding.md` R92). -/
theorem decodeTxn_ok {x : HostTxn} {i : Instr} (h : decodeTxn x = .ok i) :
    (∃ low, i = .reservedKind3 low) ∨
    (∃ d, x = dgramTxn d ∧ d.length ≤ maxDgramBytes ∧ i = .dgram d) ∨
    (∃ off, x = readTxn off ∧ offsetOk off = true ∧ i = .regRead off) ∨
    (∃ off v, x = writeTxn off v ∧ offsetOk off = true ∧ i = decodeWrite off v) := by
  obtain ⟨cw, data⟩ := x
  simp only [decodeTxn] at h
  split_ifs at h with h1 h2 h3 h4 h5 h6
  · cases h; exact .inl ⟨_, rfl⟩
  · have hcw := commandWord_fields cw (by simpa using h2)
    cases data <;> dsimp only at h
    case datagram len bytes =>
      split_ifs at h with h7 h8
      cases h
      simp at h4 h8
      rw [h3, h4] at hcw
      exact .inr (.inl ⟨bytes, by simp only [dgramTxn, hcw, h8]; simp, by omega, rfl⟩)
    all_goals cases h
  · have hcw := commandWord_fields cw (by simpa using h2)
    cases data <;> dsimp only at h <;> cases h
    rw [h6] at hcw
    exact .inr (.inr (.inl ⟨_, by simp only [readTxn, hcw], by simpa using h5, rfl⟩))
  · have hcw := commandWord_fields cw (by simpa using h2)
    have h7 : cw.extractLsb' 14 2 = 2#2 := by
      clear hcw h2 h5 h
      generalize cw.extractLsb' 14 2 = v at *
      revert v; decide
    rw [h7] at hcw
    cases data <;> dsimp only at h <;> cases h
    exact .inr (.inr (.inr ⟨_, _, by simp only [writeTxn, hcw], by simpa using h5, rfl⟩))

/-- What a step that answers a next state can do. -/
theorem step_cases {s t : State} (h : step s = .next t) :
    (s.inputs = [] ∧ t = s) ∨
    (∃ rest, s.inputs = .reset :: rest ∧ t = { State.reset with cfg := s.cfg, inputs := rest }) ∨
    (∃ d rest, s.inputs = .txn (dgramTxn d) :: rest ∧ d.length ≤ maxDgramBytes ∧
      exec (.dgram d) { s with inputs := rest } = .next t) ∨
    (∃ off rest, s.inputs = .txn (readTxn off) :: rest ∧
      t = { s with inputs := rest, answers := s.answers ++ [s.regValue off] }) ∨
    (∃ off v rest, s.inputs = .txn (writeTxn off v) :: rest ∧ t = State.regWrite off v { s with inputs := rest }) := by
  unfold step State.takeInput at h
  cases hi : s.inputs with
  | nil => rw [hi] at h; cases h; exact .inl ⟨rfl, rfl⟩
  | cons a rest =>
    rw [hi] at h
    cases a with
    | reset => cases h; exact .inr (.inl ⟨rest, rfl, rfl⟩)
    | txn x =>
      dsimp only at h
      cases hd : decodeTxn x with
      | error e => rw [hd] at h; cases h
      | ok i =>
        rw [hd] at h
        dsimp only at h
        rcases decodeTxn_ok hd with ⟨low, rfl⟩ | ⟨d, rfl, hl, rfl⟩ | ⟨off, rfl, ho, rfl⟩ | ⟨off, v, rfl, ho, rfl⟩
        · cases h
        · exact .inr (.inr (.inl ⟨d, rest, rfl, hl, h⟩))
        · simp only [exec, execRegRead, ho, if_true] at h; cases h
          exact .inr (.inr (.inr (.inl ⟨off, rest, rfl, rfl⟩)))
        · rw [exec_decodeWrite _ _ _ ho] at h; cases h
          exact .inr (.inr (.inr (.inr ⟨off, v, rest, rfl, rfl⟩)))

end Sys2Proof.Machine
end

