-- ==== Sys2Proof/Tests/Slice0.lean ====
section
/-! SUPPORT. Own tests: ill-formed terms the checks refuse, words written out from the formats of `30_encoding.md`, one
step of each instruction against a row of `95_test_vectors.md`, and for each statement of
`Certificates/Slice0/Obligations.lean` with hypotheses a state and operands that meet them. -/

namespace Sys2Proof.Tests

open Sys2Proof.Machine Sys2Proof.Claims

/-! ## Small states -/

/-- A look at the next state of an outcome. -/
def look {α : Type} (o : Result) (f : State → α) : Option α :=
  match o with
  | .next t => some (f t)
  | _ => none

/-- The state after `FUA seq=1 ind=5C s=1 e=0 ot=5 data=41 42` (W1.1), counters left at 0. -/
def openState : State :=
  { State.reset with
    frag := ⟨true, 5#5, 0x45#8, [0x00#8, 0x00#8, 0x00#8, 0x01#8, 0x45#8, 0x41#8, 0x42#8]⟩
    seq := ⟨true, 1#16⟩ }

/-- `s` with `MAX_FRAG_BYTES = n`. -/
def bounded (n : Nat) (s : State) : State := { s with cfg := { Config.default with maxFragBytes := some n } }

/-- Replay mode over the given lengths, fallback 4 bytes. -/
def replayState (l : List ScLen) (cursor : Nat) (exhausted : Bool) : State :=
  { State.reset with plan := ⟨.replay, .four, l, cursor, exhausted⟩ }

/-- A state of the tracker: `SEQ_LAST`, if any, and the packet's `SEQ` in the working register. -/
def trackState (valid : Bool) (last seq : BitVec 16) : State :=
  { State.reset with seq := ⟨valid, last⟩, w := { Working.idle with seq := seq } }

/-- `RTP seq=s payload=pl` (R97). -/
def rtp (s : Byte) (pl : Bytes) : Bytes :=
  [0x80#8, 0x60#8, 0x00#8, s, 0x00#8, 0x00#8, 0x00#8, 0x00#8, 0x00#8, 0x00#8, 0x00#8, 0x00#8] ++ pl

/-- What is seen after a datagram: the result records and the output records. -/
def dgramLook (d : Bytes) (s : State) : Option (List ResultRecord × List Bytes) :=
  look (exec (.dgram d) s) fun t => (t.results, t.output)

/-- A first packet's result record (R118). -/
def accepted (cls : SeqClass) (ev : List Event) (emitted : Nat) : List ResultRecord := [⟨.accepted, cls, 0, ev, emitted⟩]

/-- A rejected datagram's result record. -/
def rejected (st : Status) : List ResultRecord := [⟨st, .none, 0, [], 0⟩]

/-! ## WellFormed: an ill-formed term for each check -/

theorem test_wf_payload_too_long (f : Bool) (nri : BitVec 2) (t4 : BitVec 4) (t3 : BitVec 3) (t1 : BitVec 1)
    (b : Bytes) (h : b.length = 65524) :
    (Instr.singleNalT0015 f nri t4 b).wellFormed = false ∧ (Instr.singleNalT1623 f nri t3 b).wellFormed = false ∧
    (Instr.stapA f nri b).wellFormed = false ∧ (Instr.unsupportedT25 f nri b).wellFormed = false ∧
    (Instr.unsupportedT2627 f nri t1 b).wellFormed = false ∧ (Instr.fuA f nri b).wellFormed = false ∧
    (Instr.unsupportedT29 f nri b).wellFormed = false ∧ (Instr.unsupportedT3031 f nri t1 b).wellFormed = false := by
  simp [Instr.wellFormed, bodyFits, maxPayloadBytes, h]

theorem test_wf_fragment_too_long (f : Bool) (nri : BitVec 2) (r : Bool) (ot : BitVec 5)
    (b : Bytes) (h : b.length = 65523) :
    (Instr.fuAMiddle f nri r ot b).wellFormed = false ∧ (Instr.fuAEnd f nri r ot b).wellFormed = false ∧
    (Instr.fuAStart f nri r ot b).wellFormed = false ∧ (Instr.fuAStartEnd f nri r ot b).wellFormed = false := by
  simp [Instr.wellFormed, maxPayloadBytes, h]

theorem test_wf_dgram_too_long (d : Bytes) (h : d.length = 65537) : (Instr.dgram d).wellFormed = false := by
  simp [Instr.wellFormed, maxDgramBytes, h]

theorem test_wf_delta_ranges :
    (Instr.seqLost 1#16).wellFormed = false ∧ (Instr.seqLost 0x8000#16).wellFormed = false ∧
    (Instr.seqOutOfOrder 0x7FFF#16).wellFormed = false := by decide

theorem test_wf_offsets : (Instr.regRead 0x0C#8).wellFormed = false ∧ (Instr.regWrite 0x0C#8 0).wellFormed = false := by
  decide

theorem test_wf_own_rows :
    (Instr.regWrite 0x10#8 0).wellFormed = false ∧ (Instr.regWrite 0x18#8 3).wellFormed = false ∧
    (Instr.regWrite 0x00#8 1).wellFormed = false ∧ (Instr.regWrite 0x00#8 2).wellFormed = false ∧
    (Instr.regWrite 0x00#8 4).wellFormed = false := by decide

theorem test_wf_ctrl_rows :
    (Instr.ctrlStop 3).wellFormed = false ∧ (Instr.ctrlSessionReset 4).wellFormed = false ∧
    (Instr.ctrlReplayClear 6).wellFormed = false := by decide

/-! ## Decoding: words written out from the formats -/

/-- rtp_byte0, `V P X CC` (R80): `10 1 1 0010`, `00 0 0 0000`, `01 1 0 0001`, `11 0 1 1111`. -/
theorem test_decode_rtp_byte0 :
    decodeCode (.versionByte 0b10110010#8) = .ok (.rtpAcceptV2 true true 2#4) ∧
    decodeCode (.versionByte 0b00000000#8) = .ok (.rtpDropV0 false false 0#4) ∧
    decodeCode (.versionByte 0b01100001#8) = .ok (.rtpDropV1 true false 1#4) ∧
    decodeCode (.versionByte 0b11011111#8) = .ok (.rtpDropV3 false true 15#4) := by decide

/-- nal_byte0, `F NRI TYPE` (R85, R86), every row at the ends of its range; `PLEN = 0` for the empty payload. -/
theorem test_decode_nal_byte0 :
    decodeCode (.payload [0b00000000#8]) = .ok (.singleNalT0015 false 0#2 0#4 []) ∧
    decodeCode (.payload [0b11101111#8, 1#8]) = .ok (.singleNalT0015 true 3#2 15#4 [1#8]) ∧
    decodeCode (.payload [0b00010000#8]) = .ok (.singleNalT1623 false 0#2 0#3 []) ∧
    decodeCode (.payload [0b01010111#8]) = .ok (.singleNalT1623 false 2#2 7#3 []) ∧
    decodeCode (.payload [0b11111000#8, 0#8]) = .ok (.stapA true 3#2 [0#8]) ∧
    decodeCode (.payload [0b00111001#8]) = .ok (.unsupportedT25 false 1#2 []) ∧
    decodeCode (.payload [0b00011010#8]) = .ok (.unsupportedT2627 false 0#2 0#1 []) ∧
    decodeCode (.payload [0b00011011#8]) = .ok (.unsupportedT2627 false 0#2 1#1 []) ∧
    decodeCode (.payload [0b01011100#8, 0x85#8]) = .ok (.fuA false 2#2 [0x85#8]) ∧
    decodeCode (.payload [0b00011101#8]) = .ok (.unsupportedT29 false 0#2 []) ∧
    decodeCode (.payload [0b00011110#8]) = .ok (.unsupportedT3031 false 0#2 0#1 []) ∧
    decodeCode (.payload [0b10011111#8]) = .ok (.unsupportedT3031 true 0#2 1#1 []) ∧
    decodeCode (.payload []) = .ok .emptyPayload := by decide

/-- fu_word, `F NRI 11100` then `S E R OT` (R87); one byte alone is too short. -/
theorem test_decode_fu_word :
    decodeCode (.fuPayload [0b01011100#8, 0b00000101#8, 0x43#8]) = .ok (.fuAMiddle false 2#2 false 5#5 [0x43#8]) ∧
    decodeCode (.fuPayload [0b01011100#8, 0b01000101#8]) = .ok (.fuAEnd false 2#2 false 5#5 []) ∧
    decodeCode (.fuPayload [0b11111100#8, 0b10100001#8]) = .ok (.fuAStart true 3#2 true 1#5 []) ∧
    decodeCode (.fuPayload [0b01011100#8, 0b11011111#8]) = .ok (.fuAStartEnd false 2#2 false 31#5 []) ∧
    decodeCode (.fuPayload [0b01011100#8]) = .ok (.fuATooShort false 2#2) := by decide

/-- seq_valid and seq_delta16 (R170): the ends of each range. -/
theorem test_decode_sequence :
    decodeCode (.sequence none) = .ok .seqFirst ∧
    decodeCode (.sequence (some 0x0000#16)) = .ok .seqDuplicate ∧
    decodeCode (.sequence (some 0x0001#16)) = .ok .seqInOrder ∧
    decodeCode (.sequence (some 0x0002#16)) = .ok (.seqLost 2#16) ∧
    decodeCode (.sequence (some 0x7FFF#16)) = .ok (.seqLost 32767#16) ∧
    decodeCode (.sequence (some 0x8000#16)) = .ok (.seqOutOfOrder 32768#16) ∧
    decodeCode (.sequence (some 0xFFFF#16)) = .ok (.seqOutOfOrder 65535#16) := by decide

/-- host_cw, `KIND RSV OFF` (R92, R93), with the data that follows. -/
theorem test_decode_host :
    decodeCode (.host ⟨0b0000000000000000#16, .datagram 2#17 [0x80#8, 0x60#8]⟩) = .ok (.dgram [0x80#8, 0x60#8]) ∧
    decodeCode (.host ⟨0b0100000011111000#16, .none⟩) = .ok (.regRead 0xF8#8) ∧
    decodeCode (.host ⟨0b1000000001000000#16, .value 7⟩) = .ok (.regWrite 0x40#8 7) ∧
    decodeCode (.host ⟨0b1100000000000001#16, .none⟩) = .ok (.reservedKind3 1#14) ∧
    decodeCode (.host ⟨0b1000000000000000#16, .value 1⟩) = .ok (.ctrlStop 1) ∧
    decodeCode (.host ⟨0b1000000000000000#16, .value 3⟩) = .ok (.ctrlSessionReset 3) ∧
    decodeCode (.host ⟨0b1000000000000000#16, .value 5⟩) = .ok (.ctrlReplayClear 5) ∧
    decodeCode (.host ⟨0b1000000000010000#16, .value 3⟩) = .ok (.scCfgWrite 3) ∧
    decodeCode (.host ⟨0b1000000000011000#16, .value 4⟩) = .ok (.replayPushWrite 4) := by decide

/-- Every name a decoder rejects by. -/
theorem test_decode_errors :
    decodeCode (.host ⟨0x4100#16, .none⟩) = .error .reservedBits ∧
    decodeCode (.host ⟨0x000C#16, .datagram 0#17 []⟩) = .error .dgramOffset ∧
    decodeCode (.host ⟨0x0000#16, .datagram 65537#17 []⟩) = .error .datagramTooLong ∧
    decodeCode (.host ⟨0x400C#16, .none⟩) = .error .badOffset ∧
    decodeCode (.host ⟨0x4008#16, .value 0⟩) = .error .dataMismatch ∧
    decodeCode (.fuPayload [0x41#8]) = .error .notFuPayload := by decide

theorem test_decode_payload_too_long (pl : Bytes) (h : pl.length = 65525) :
    decodeCode (.payload pl) = .error .payloadTooLong := by
  simp [decodeCode, maxPayloadBytes, h]

/-! ## The opcode table's words -/

theorem test_table_words :
    decodeTableWord 8 0x80 = some (.rtpAcceptV2 false false 0#4) ∧
    decodeTableWord 8 0x18 = some (.stapA false 0#2 []) ∧
    decodeTableWord 16 0x1C80 = some (.fuAStart false 0#2 false 0#5 []) ∧
    decodeTableWord 16 0x4000 = some (.regRead 0x00#8) ∧
    decodeTableWord 16 0xC000 = some (.reservedKind3 0#14) := by decide

theorem test_fetch_runs_the_word :
    look (step (State.reset.withFetchWord 8 0x80)) (fun t => t.results) = some (accepted .inOrder [.emptyPayload] 0) ∧
    look (step (State.reset.withFetchWord 16 0x1C80)) (fun t => t.frag.acc) =
      some [0x00#8, 0x00#8, 0x00#8, 0x01#8, 0x00#8] ∧
    look (step (State.reset.withFetchWord 16 0x4000)) (fun t => t.answers) = some [0] := by decide

/-! ## Instructions, against the vectors of `95_test_vectors.md` -/

/-- H03. -/
theorem test_rtpAcceptV2_counts_empty :
    look (exec (.rtpAcceptV2 false false 0#4) { State.reset with
      dgram := rtp 1#8 [], w := { Working.idle with seq := 1#16, poff := 12, m := true } })
      (fun t => (t.ctr.packets, t.ctr.payloadBytes, t.ctr.markers, t.seq, t.res.events)) =
      some (1, 0, 1, ⟨true, 1#16⟩, [.emptyPayload]) := by decide

/-- H15, H16, H17. -/
theorem test_rtpDrop_versions :
    dgramLook (0x00#8 :: (rtp 1#8 [0x41#8]).tail) State.reset = some (rejected .versionDropped, []) ∧
    dgramLook (0x40#8 :: (rtp 1#8 [0x41#8]).tail) State.reset = some (rejected .versionDropped, []) ∧
    dgramLook (0xC0#8 :: (rtp 1#8 [0x41#8]).tail) State.reset = some (rejected .versionDropped, []) := by decide

theorem test_rtpDrop_rows :
    look (exec (.rtpDropV0 false false 0#4) State.reset) (fun t => t.res.status) = some .versionDropped ∧
    look (exec (.rtpDropV1 false false 0#4) State.reset) (fun t => t.res.status) = some .versionDropped ∧
    look (exec (.rtpDropV3 false false 0#4) State.reset) (fun t => t.res.status) = some .versionDropped := by decide

/-- N04: `F = 1` passes. -/
theorem test_singleNalT0015_keeps_forbidden :
    look (exec (.singleNalT0015 true 3#2 5#4 [0x01#8]) State.reset) (fun t => (t.output, t.ctr.nalUnits)) =
      some ([[0x00#8, 0x00#8, 0x00#8, 0x01#8, 0xE5#8, 0x01#8]], 1) := by decide

/-- N03: type 23. -/
theorem test_singleNalT1623_type23 :
    dgramLook (rtp 1#8 [0x17#8, 0x01#8]) State.reset =
      some (accepted .inOrder [] 1, [[0x00#8, 0x00#8, 0x00#8, 0x01#8, 0x17#8, 0x01#8]]) := by decide

/-- S03: an empty unit is emitted. -/
theorem test_stapA_empty_unit :
    dgramLook (rtp 1#8 [0x18#8, 0x00#8, 0x00#8, 0x00#8, 0x01#8, 0x09#8]) State.reset =
      some (accepted .inOrder [] 2, [[0x00#8, 0x00#8, 0x00#8, 0x01#8], [0x00#8, 0x00#8, 0x00#8, 0x01#8, 0x09#8]]) := by
  decide

/-- S07: abandons, then overflows. -/
theorem test_stapA_overflow_with_open_fragment :
    dgramLook (rtp 2#8 [0x18#8, 0x00#8, 0x09#8, 0x01#8]) openState = some (accepted .inOrder [.abandonedFragment, .stapLengthOverflow] 0, []) := by decide

/-- N06, N07, N10, N11: types 25, 26, 29, 30. -/
theorem test_unsupported_types :
    dgramLook (rtp 1#8 [0x79#8, 0x00#8]) State.reset = some (accepted .inOrder [.unsupportedNalType] 0, []) ∧
    dgramLook (rtp 1#8 [0x7A#8, 0x00#8]) State.reset = some (accepted .inOrder [.unsupportedNalType] 0, []) ∧
    dgramLook (rtp 1#8 [0x7D#8, 0x00#8]) State.reset = some (accepted .inOrder [.unsupportedNalType] 0, []) ∧
    dgramLook (rtp 1#8 [0x7E#8, 0x00#8]) State.reset = some (accepted .inOrder [.unsupportedNalType] 0, []) := by decide

/-- The four rows abandon an open fragment first (R132). -/
theorem test_unsupported_rows_abandon :
    look (exec (.unsupportedT25 false 0#2 []) openState) (fun t => t.res.events) =
      some [.abandonedFragment, .unsupportedNalType] ∧
    look (exec (.unsupportedT2627 false 0#2 1#1 []) openState) (fun t => t.frag) = some Frag.idle ∧
    look (exec (.unsupportedT29 false 0#2 []) openState) (fun t => t.ctr.decodeErrors) = some 2 ∧
    look (exec (.unsupportedT3031 false 0#2 1#1 []) openState) (fun t => t.output) = some [] := by decide

/-- H03 and R133 with a fragment open. -/
theorem test_emptyPayload_keeps_fragment :
    dgramLook (rtp 1#8 []) State.reset = some (accepted .inOrder [.emptyPayload] 0, []) ∧
    look (exec .emptyPayload openState) (fun t => t.frag) = some openState.frag := by decide

/-- F08, and F07 from `Idle`. -/
theorem test_fuAMiddle :
    look (exec (.fuAMiddle false 2#2 false 5#5 [0x43#8]) openState) (fun t => t.frag.acc.length) = some 8 ∧
    look (exec (.fuAMiddle false 2#2 false 5#5 [0x43#8]) State.reset) (fun t => t.res.events) =
      some [.fuContinuationWithoutStart] := by decide

/-- F16: a bounded buffer overflows. -/
theorem test_fuAMiddle_overflow :
    look (exec (.fuAMiddle false 2#2 false 5#5 [0x01#8, 0x02#8]) (bounded 8 openState))
      (fun t => (t.frag, t.res.events)) = some (Frag.idle, [.fragmentOverflow]) := by decide

/-- F10, and F13 with other `F`, `NRI` and type bits. -/
theorem test_fuAEnd :
    dgramLook (rtp 2#8 [0x5C#8, 0x45#8, 0x44#8, 0x45#8]) openState = some (accepted .inOrder [] 1,
      [[0x00#8, 0x00#8, 0x00#8, 0x01#8, 0x45#8, 0x41#8, 0x42#8, 0x44#8, 0x45#8]]) ∧
    look (exec (.fuAEnd false 1#2 false 7#5 [0x46#8]) openState) (fun t => (t.output, t.frag)) =
      some ([[0x00#8, 0x00#8, 0x00#8, 0x01#8, 0x45#8, 0x41#8, 0x42#8, 0x46#8]], Frag.idle) := by decide

/-- F12: `F = 1`, `NRI = 3`, `OT = 1` give `RHDR = 0xE1`. -/
theorem test_fuAStart_header :
    look (exec (.fuAStart true 3#2 false 1#5 [0x10#8]) State.reset) (fun t => (t.frag.hdr, t.frag.acc.length)) =
      some (0xE1#8, 6) := by decide

/-- F18: abandons, then overflows. -/
theorem test_fuAStart_overflow :
    dgramLook (rtp 2#8 [0x5C#8, 0x85#8, 0x01#8, 0x02#8, 0x03#8, 0x04#8]) (bounded 8 openState) =
      some (accepted .inOrder [.abandonedFragment, .fragmentOverflow] 0, []) := by decide

/-- F06. -/
theorem test_fuAStartEnd :
    dgramLook (rtp 2#8 [0x5C#8, 0xC5#8, 0x51#8]) openState =
      some (accepted .inOrder [.abandonedFragment] 1, [[0x00#8, 0x00#8, 0x00#8, 0x01#8, 0x45#8, 0x51#8]]) := by decide

/-- F02: the fragment stays open. -/
theorem test_fuATooShort :
    look (exec (.fuATooShort false 2#2) openState) (fun t => (t.frag, t.res.events)) =
      some (openState.frag, [.fuTooShort]) := by decide

/-- F14 through `FU_A`: bit 5 of the FU header is ignored. -/
theorem test_fuA_ignores_reserved_bit :
    look (exec (.fuA false 2#2 [0xA5#8, 0x41#8]) State.reset) (fun t => t.frag.acc) =
      some [0x00#8, 0x00#8, 0x00#8, 0x01#8, 0x45#8, 0x41#8] := by decide

/-- Q01, Q02, Q03. -/
theorem test_sequence_quiet_rows :
    look (observe (trackState false 0#16 500#16)) (fun t => (t.seq, t.res.seqClass)) =
      some (⟨true, 500#16⟩, .inOrder) ∧
    look (exec .seqDuplicate (trackState true 7#16 7#16)) (fun t => t.ctr.duplicate) = some 1 ∧
    look (exec .seqInOrder (trackState true 10#16 11#16)) (fun t => (t.seq.last, t.res.seqClass)) =
      some (11#16, .inOrder) := by decide

/-- Q05, Q13, Q10. -/
theorem test_seqLost :
    look (observe (trackState true 0#16 32767#16)) (fun t => (t.ctr.lost, t.res.lostN)) = some (32766, 32766) ∧
    look (observe (trackState true 40000#16 7231#16)) (fun t => t.ctr.lost) = some 32766 ∧
    look (observe (trackState true 65000#16 100#16)) (fun t => t.res.lostN) = some 635 := by decide

/-- Q06, Q11, Q08 (wraparound). -/
theorem test_seqOutOfOrder :
    look (observe (trackState true 0#16 32768#16)) (fun t => (t.ctr.outOfOrder, t.seq.last)) = some (1, 32768#16) ∧
    look (observe (trackState true 100#16 65000#16)) (fun t => t.res.seqClass) = some .outOfOrder ∧
    look (observe (trackState true 65535#16 0#16)) (fun t => t.res.seqClass) = some .inOrder := by decide

/-- W8.1: every header field in play. -/
theorem test_dgram_full_header :
    dgramLook [0xB2#8, 0xE0#8, 0x12#8, 0x34#8, 0x00#8, 0x00#8, 0x00#8, 0x64#8, 0xDE#8, 0xAD#8, 0xBE#8, 0xEF#8,
      0x00#8, 0x00#8, 0x00#8, 0x01#8, 0x00#8, 0x00#8, 0x00#8, 0x02#8, 0xBE#8, 0xDE#8, 0x00#8, 0x01#8, 0x11#8, 0x22#8,
      0x33#8, 0x44#8, 0x65#8, 0xAA#8, 0x00#8, 0x00#8, 0x03#8] State.reset =
      some (accepted .inOrder [] 1, [[0x00#8, 0x00#8, 0x00#8, 0x01#8, 0x65#8, 0xAA#8]]) := by decide

/-- H08, H14, H18: the other status of an overrun, padding of an empty payload, header before version. -/
theorem test_dgram_header_errors :
    dgramLook ([0x90#8, 0x60#8, 0x00#8, 0x01#8, 0x00#8, 0x00#8, 0x00#8, 0x00#8, 0x00#8, 0x00#8, 0x00#8, 0x00#8] ++
      [0xBE#8, 0xDE#8, 0x00#8, 0x01#8, 0x11#8, 0x22#8, 0x33#8])
      { State.reset with cfg := { Config.default with extOverrun := .invalidExtensionLength } } =
      some (rejected .invalidExtensionLength, []) ∧
    dgramLook [0xA0#8, 0x60#8, 0x00#8, 0x01#8, 0x00#8, 0x00#8, 0x00#8, 0x00#8, 0x00#8, 0x00#8, 0x00#8, 0x05#8]
      State.reset = some (rejected .invalidPadding, []) ∧
    dgramLook [0xC0#8, 0x60#8, 0x00#8, 0x01#8, 0x00#8, 0x00#8, 0x00#8, 0x00#8] State.reset =
      some (rejected .headerTooShort, []) := by decide

/-- `STATUS` of K08 before the stop: `FRAG_ACTIVE`, `SEQ_VALID`, type 5, header 0x45, `SEQ_LAST` 1. -/
theorem test_regRead_status :
    look (exec (.regRead 0x08#8) openState) (fun t => t.answers) = some [0x100450506] ∧
    look (exec (.regRead 0x28#8) openState) (fun t => t.answers) = some [7] := by decide

/-- K05: ignored writes. -/
theorem test_regWrite_ignored :
    look (exec (.regWrite 0x40#8 0) openState) id = some openState ∧
    look (exec (.regWrite 0x30#8 5) openState) id = some openState := by decide

/-- K10. -/
theorem test_reservedKind3_refused : exec (.reservedKind3 0#14) State.reset = .refused .reservedKind := rfl

/-- K08. -/
theorem test_ctrlStop :
    look (exec (.ctrlStop 1) openState) (fun t => (t.stopped, t.frag.acc.length)) = some (true, 7) := by decide

/-- K02, K09. -/
theorem test_ctrlSessionReset :
    look (exec (.ctrlSessionReset 3) openState) (fun t => (t.regValue 0x08#8, t.frag)) = some (1, Frag.idle) ∧
    look (exec (.ctrlSessionReset 2) openState) (fun t => t.regValue 0x08#8) = some 0 := by decide

/-- K03: all three actions. -/
theorem test_ctrlReplayClear :
    look (exec (.ctrlSessionReset 7) (replayState [.four, .three] 1 false))
      (fun t => (t.regValue 0x08#8, t.regValue 0x20#8, t.regValue 0x10#8)) = some (1, 0, 3) ∧
    look (exec (.ctrlReplayClear 4) (replayState [.four, .three] 1 true)) (fun t => (t.plan.list, t.plan.exhausted)) =
      some ([], false) := by decide

/-- K04. -/
theorem test_scCfgWrite :
    look (exec (.scCfgWrite 0xFF) State.reset) (fun t => t.regValue 0x10#8) = some 3 ∧
    look (exec (.scCfgWrite 0) (replayState [.four] 1 true)) (fun t => (t.plan.cursor, t.plan.exhausted)) =
      some (1, true) := by decide

/-- K06, K07. -/
theorem test_replayPushWrite :
    look (exec (.replayPushWrite 0x13) State.reset) (fun t => t.plan.list) = some [.three] ∧
    look (exec (.replayPushWrite 3)
      { replayState [.three, .four] 0 false with cfg := { Config.default with replayCap := 2 } })
      (fun t => t.plan.list.length) = some 2 := by decide

/-- R118, R176, R210: the codes of the abandoned fragment's packet of P3. -/
theorem test_result_codes :
    (⟨.accepted, .outOfOrder, 0, [.abandonedFragment], 1⟩ : ResultRecord).codes = (0, 4, 0, [1], 1) := by decide

/-- A02, A05, A06: the host's scanner. -/
theorem test_scanner :
    units Config.default [0x00#8, 0x00#8, 0x00#8, 0x01#8, 0x67#8, 0x42#8, 0x00#8, 0x00#8, 0x01#8, 0x68#8, 0xCE#8] =
      some ⟨[nalUnit 0x67#8 [0x42#8], nalUnit 0x68#8 [0xCE#8]], [.four, .three], 0⟩ ∧
    units Config.default [0x00#8, 0x00#8, 0x01#8, 0xE5#8, 0x01#8] = none ∧
    units { Config.default with scanForbidden := .skipAndCount } [0x00#8, 0x00#8, 0x01#8, 0xE5#8, 0x01#8] =
      some ⟨[], [.three], 1⟩ := by decide

/-- P2's last two calls: the list ends, the fallback is used and the flag is set. -/
theorem test_planner_fallback :
    Plan.take 2 (replayState [.three] 0 false).plan =
      ([startCode .three, startCode .four], (replayState [.three] 1 true).plan) := by decide

/-! ## Witnesses: what meets the hypotheses of each statement -/

/-- `EncodedInstructionDecodesBack`: well-formed terms at the ends of their ranges. -/
theorem witness_wellFormed :
    (Instr.seqLost 2#16).wellFormed = true ∧ (Instr.seqLost 32767#16).wellFormed = true ∧
    (Instr.seqOutOfOrder 32768#16).wellFormed = true ∧ (Instr.regRead 0xF8#8).wellFormed = true ∧
    (Instr.fuAStart true 3#2 true 31#5 []).wellFormed = true ∧ (Instr.ctrlReplayClear 5).wellFormed = true ∧
    (Instr.regWrite 0x00#8 8).wellFormed = true ∧ (Instr.dgram []).wellFormed = true := by decide

/-- `DecodersAnswerWellFormed`, `DecodingLosesNoBit`: a code that decodes, and the exception of `KIND = 3` with data, whose
14 low bits are kept. -/
theorem witness_decodes :
    decodeCode (.host ⟨0xD234#16, .value 1⟩) = .ok (.reservedKind3 0x1234#14) ∧
    decodeCode (.fuPayload [0x7C#8, 0xFF#8]) = .ok (.fuAStartEnd false 3#2 true 31#5 []) := by decide

/-- `StepRunsDecodedInstruction`: the four clauses. -/
theorem witness_step :
    State.reset.inputs = [] ∧
    ({ State.reset with inputs := [.reset] } : State).inputs = [.reset] ∧
    (State.reset.issue (readTxn 0xF8#8)).inputs = [.txn (readTxn 0xF8#8)] ∧
    decodeTxn (readTxn 0xF8#8) = .ok (.regRead 0xF8#8) ∧
    decodeTxn (readTxn 0xF9#8) = .error .badOffset := by decide

/-- `RefusedTransactionsTakeNoStep`: K10, one command word for each condition. -/
theorem witness_refused_words :
    (0xC000#16).toNat / 16384 = 3 ∧ (0x4100#16).toNat / 256 % 64 ≠ 0 ∧
    ((0x000C#16).toNat / 16384 = 0 ∧ (0x000C#16).toNat % 256 ≠ 0) ∧
    ((0x0000#16).toNat / 16384 = 0 ∧ (65537#17).toNat > 65536) ∧
    ((0x400C#16).toNat / 16384 ≠ 0 ∧ (0x400C#16).toNat % 8 ≠ 0) := by decide

/-- `ReservedKindIsRefused`: one byte too many, and a misaligned offset. -/
theorem witness_refused_operands : 65536 < (List.replicate 65537 0#8).length ∧ (0xF9#8).toNat % 8 ≠ 0 := by
  constructor
  · rw [List.length_replicate]; decide
  · decide

/-- `TrackerClassifiesByModularDelta`: no number yet, then deltas 0, 1, 2, 32767, 32768, 65535. -/
theorem witness_tracker :
    (trackState false 0#16 500#16).seq.valid = false ∧ (trackState true 1#16 0#16).seq.valid = true ∧
    [(7, 7), (65535, 0), (11, 13), (0, 32767), (1, 32769), (13, 12)].map
      (fun p : Nat × Nat => (p.2 + 65536 - p.1) % 65536) = [0, 1, 2, 32767, 32768, 65535] := by decide

/-- `SequenceRowsComplete`: the ends of the two ranges. -/
theorem witness_sequence_rows :
    2 ≤ (2#16).toNat ∧ (32767#16).toNat ≤ 32767 ∧ 32768 ≤ (32768#16).toNat ∧ 32768 ≤ (65535#16).toNat := by decide

/-- `SequenceNeverReachesOutput`: two blocks that differ in sequence state, `LOST` and a result's class, a datagram that
completes, and another sequence number for it. -/
theorem witness_sequence_blind :
    let s := { openState with results := accepted .inOrder [] 0 }
    let s' := { openState with
      seq := ⟨true, 7#16⟩, ctr := { openState.ctr with lost := 3 }, results := accepted .lost [] 0 }
    s'.cfg = s.cfg ∧ sequenceBlind s' = sequenceBlind s ∧ s' ≠ s ∧
    (∃ t, exec (.dgram (rtp 1#8 [0x41#8])) s = .next t) ∧
    withSeq 0x12#8 0x34#8 (rtp 1#8 [0x41#8]) ≠ rtp 1#8 [0x41#8] :=
  ⟨rfl, rfl, by decide, ⟨_, rfl⟩, by decide⟩

/-- `SequenceNumbersSteerNoStep`: the same two blocks, each with its own number for the datagram to come; a read of
`NAL_UNITS`, which must answer alike, and of `LOST`, which need not (R28); and a transaction that is refused. -/
theorem witness_sequence_step :
    let s := { openState with results := accepted .inOrder [] 0 }
    let s' := { openState with
      seq := ⟨true, 7#16⟩, ctr := { openState.ctr with lost := 3 }, results := accepted .lost [] 0 }
    let d := rtp 1#8 [0x41#8]
    AgreeButSequence (s.issue (dgramTxn d)) (s'.issue (dgramTxn (withSeq 0x12#8 0x34#8 d))) ∧
    dgramTxn (withSeq 0x12#8 0x34#8 d) ≠ dgramTxn d ∧ (∃ t, step (s.issue (dgramTxn d)) = .next t) ∧
    AgreeButSequence (s.issue (readTxn 0x50#8)) (s'.issue (readTxn 0x50#8)) ∧ s'.answers = s.answers ∧
    ¬ IsTrackerRead (s.issue (readTxn 0x50#8)) ∧ IsTrackerRead (s.issue (readTxn 0x58#8)) ∧
    step (s.issue ⟨0xC000#16, .none⟩) = .refused .reservedKind :=
  ⟨⟨rfl, rfl, .cons (.inr ⟨_, _, _, rfl, rfl⟩) .nil⟩, by decide, ⟨_, rfl⟩,
    ⟨rfl, rfl, .cons (.inl rfl) .nil⟩, rfl,
    by rintro ⟨off, rest, h, ho⟩; fin_cases ho <;> simp [State.issue, readTxn, commandWord] at h,
    ⟨0x58#8, _, rfl, by simp⟩, rfl⟩

/-- `HeaderDecodeMatchesFormula`, `HeaderFieldsUnpack`: the shortest header that decodes (H03); and an extension overrun
under each value of `EXT_OVERRUN_STATUS` (R113 (c)). -/
theorem witness_header_decodes :
    (rtp 1#8 []).length ≤ 65536 ∧ (∃ w, headerDecode Config.default (rtp 1#8 []) = .ok w) ∧
    (let d : Bytes := 0x90#8 :: (rtp 1#8 [0xBE#8, 0xDE#8, 0x00#8, 0x01#8]).tail
     headerFormula Config.default d = .error .headerTooShort ∧
     headerFormula { Config.default with extOverrun := .invalidExtensionLength } d = .error .invalidExtensionLength) :=
  ⟨by decide, ⟨_, rfl⟩, rfl, rfl⟩

/-- `RejectedDatagramChangesNothing`: its three clauses (H22, W5, W8.2). -/
theorem witness_rejected :
    State.reset.BetweenDatagrams ∧ (rtp 1#8 []).length ≤ 65536 ∧
    ({ State.reset with stopped := true } : State).stopped = true ∧ State.reset.stopped = false ∧
    headerDecode Config.default [0x80#8, 0x60#8, 0x00#8, 0x01#8, 0x00#8, 0x00#8, 0x00#8, 0x00#8] =
      .error .headerTooShort ∧
    (∃ w, headerDecode Config.default (0x40#8 :: (rtp 1#8 [0x41#8]).tail) = .ok w) ∧
    byteAt (0x40#8 :: (rtp 1#8 [0x41#8]).tail) 0 / 64 ≠ 2 :=
  ⟨⟨rfl, rfl, rfl⟩, by decide, rfl, rfl, rfl, ⟨_, rfl⟩, by decide⟩

/-- `OtherVersionsDropped`: both sides of the version test. -/
theorem witness_versions : (0x7F#8).toNat / 64 ≠ 2 ∧ (0x80#8).toNat / 64 = 2 ∧ (0xBF#8).toNat / 64 = 2 ∧
    (0xC0#8).toNat / 64 ≠ 2 := by decide

/-- `EveryDatagramCompletes`: the shortest and the longest datagram. -/
theorem witness_datagram_lengths : ([] : Bytes).length ≤ 65536 ∧ (List.replicate 65536 0#8).length ≤ 65536 :=
  ⟨by decide, (List.length_replicate).le⟩

/-- `DatagramRunsDecodedRows` and `AcceptedPacketIsCounted`: bounds inside `D`, up to its end; and outside. -/
theorem witness_payload_bounds :
    State.reset.stopped = false ∧
    ({ State.reset with dgram := rtp 1#8 [0x41#8], w := { Working.idle with poff := 12, plen := 1 } } : State).payload? =
      some [0x41#8] ∧
    ({ State.reset with dgram := [], w := { Working.idle with poff := 0, plen := 0 } } : State).payload? = some [] ∧
    ({ State.reset with dgram := [], w := { Working.idle with poff := 0, plen := 1 } } : State).payload? = none := by
  decide

/-- `ClassifierDispatchesOnType`, `OtherTypesCloseFragment`: bytes at the ends of the rows' ranges. -/
theorem witness_types :
    [0x00#8, 0xEF#8, 0x10#8, 0xF7#8, 0x18#8, 0x39#8, 0x1A#8, 0x7B#8, 0x5C#8, 0x1D#8, 0x1E#8, 0xFF#8].map
      (fun b : Byte => b.toNat % 32) = [0, 15, 16, 23, 24, 25, 26, 27, 28, 29, 30, 31] := by decide

/-- `AbandonDiscardsOpenFragment`, `FuContinuationAppendsAndEnds`: a fragment open, and none. -/
theorem witness_fragment :
    openState.frag.active = true ∧ State.reset.frag.active = false ∧
    fragFits (bounded 8 openState).cfg (openState.frag.acc ++ [0x43#8]).length = true ∧
    fragFits (bounded 8 openState).cfg (openState.frag.acc ++ [0x01#8, 0x02#8]).length = false := by decide

/-- `SingleNalEmitsWholePayload`: both rows. -/
theorem witness_single_nal :
    singleNalBytes (.singleNalT0015 true 3#2 15#4 [0x01#8]) = some [0xEF#8, 0x01#8] ∧
    singleNalBytes (.singleNalT1623 false 0#2 7#3 []) = some [0x17#8] := by decide

/-- `FuStartOpensBuffer`, `FuStartEndEmitsAtOnce`, `OversizedStartStaysIdle`: P4's seed of 10 bytes at its bound, and one
byte under it. -/
theorem witness_seed :
    fragFits (bounded 10 State.reset).cfg
      (State.reset.nextStartCode ++ nalHeader false 2#2 5#5 :: [0x01#8, 0x02#8, 0x03#8, 0x04#8, 0x05#8]).length = true ∧
    fragFits (bounded 9 State.reset).cfg
      (State.reset.nextStartCode ++ nalHeader false 2#2 5#5 :: [0x01#8, 0x02#8, 0x03#8, 0x04#8, 0x05#8]).length = false ∧
    fragFits Config.default 1000000 = true := by decide

/-- `FuADispatchesOnStartAndEnd`: FU headers at the ends of the four ranges. -/
theorem witness_fu_headers :
    [0x00#8, 0x3F#8, 0x40#8, 0x7F#8, 0x80#8, 0xBF#8, 0xC0#8, 0xFF#8].map (fun b : Byte => b.toNat / 64) =
      [0, 0, 1, 1, 2, 2, 3, 3] := by decide

/-- `FragmentedUnitReassembled`: a record of 10 bytes at its bound, whose middle fragment names another type. -/
theorem witness_reassembled :
    let record := State.reset.nextStartCode ++
      fuUnit ⟨false, 2#2, false, 5#5, [0x41#8]⟩ [⟨true, 0#2, true, 7#5, [0x42#8, 0x43#8]⟩]
        ⟨false, 2#2, false, 5#5, [0x44#8, 0x45#8]⟩
    record.length = 10 ∧ fragFits (bounded 10 State.reset).cfg record.length = true := by decide

/-- `FormatterReplaysThenFallsBack`: each clause; the cursor at the end of the list, and before it. -/
theorem witness_plans :
    State.reset.plan.mode = .fixed ∧ (replayState [.three] 1 true).plan.exhausted = true ∧
    (replayState [.three] 1 false).plan.mode = .replay ∧ (replayState [.three] 1 false).plan.exhausted = false ∧
    (replayState [.three] 1 false).plan.cursor = (replayState [.three] 1 false).plan.list.length ∧
    (replayState [.three] 0 false).plan.cursor ≤ (replayState [.three] 0 false).plan.list.length := by decide

/-- One carrier of each form, with six units in all. -/
def carriers : List Carrier :=
  [.singleLow false 3#2 7#4 [0x42#8], .singleHigh false 3#2 7#3 [], .aggregate false 3#2 [[0x68#8, 0xCE#8], [0x06#8]],
   .whole ⟨false, 3#2, false, 5#5, [0x88#8]⟩,
   .fragments ⟨false, 2#2, false, 1#5, [0x41#8]⟩ [⟨false, 2#2, false, 1#5, []⟩] ⟨false, 2#2, false, 1#5, [0x43#8]⟩]

/-- `ReplayReproducesStream`: six units, six lengths ahead of the cursor, and no event. -/
theorem witness_replay :
    let s := replayState [.three, .four, .three, .three, .four, .four, .three] 1 false
    (∀ x ∈ carriers, x.Ok) ∧ s.plan.mode = .replay ∧ s.plan.exhausted = false ∧
    s.plan.cursor + (carriers.flatMap Carrier.units).length = s.plan.list.length ∧
    s.cfg.maxFragBytes = none ∧ s.frag.active = false ∧
    look (runAll (carriers.flatMap Carrier.rows) s) (fun t => t.res.events) = some [] := by
  refine ⟨?_, by decide, by decide, by decide, by decide, by decide, by decide⟩
  simp [carriers, Carrier.Ok]

/-- `ScannerRecoversCleanUnits`: a clean unit, with two zeros inside. -/
theorem witness_clean_unit : CleanUnit [0x65#8, 0x00#8, 0x00#8, 0x03#8] :=
  ⟨⟨_, _, rfl, by decide⟩, by decide, by decide⟩

/-- `RegisterReadAnswersOnly`, `RegisterMapValues`, `RegisterWritesElsewhereIgnored`: offsets at the ends and at the
writable registers. -/
theorem witness_offsets :
    (0x00#8).toNat % 8 = 0 ∧ (0xF8#8).toNat % 8 = 0 ∧ 0x90 ≤ (0x90#8).toNat ∧
    ((0x08#8).toNat % 8 = 0 ∧ (0x08#8).toNat ≠ 0x00 ∧ (0x08#8).toNat ≠ 0x10 ∧ (0x08#8).toNat ≠ 0x18) ∧
    (0x10#8).toNat = 0x10 ∧ (0x18#8).toNat = 0x18 := by decide

/-- `ReplayPushAppends`: room for one, and none; lengths 3 and 4, and another value. -/
theorem witness_push :
    (3#64).toNat % 8 = 3 ∧ (0x14#64).toNat % 8 = 4 ∧ (5#64).toNat % 8 ≠ 3 ∧ (5#64).toNat % 8 ≠ 4 ∧
    State.reset.plan.list.length < State.reset.cfg.replayCap ∧
    ({ Config.default with replayCap := 1 } : Config).replayCap ≤ (replayState [.three] 0 false).plan.list.length := by
  decide

/-- `EveryStepKeepsInvariant`: a state with a fragment open and an end fragment to come. -/
theorem witness_invariant :
    (openState.issue (hostFua 2#16 0x5C#8 false true 5#5 [0x43#8])).Inv ∧
    ∃ t, step (openState.issue (hostFua 2#16 0x5C#8 false true 5#5 [0x43#8])) = .next t :=
  ⟨⟨rfl, ⟨rfl, rfl, rfl⟩, by decide, by decide, fun _ h => (List.not_mem_nil h).elim,
    fun _ h => (List.not_mem_nil h).elim⟩, ⟨_, rfl⟩⟩

/-- `StreamsOnlyGrow`: a step of each kind. -/
theorem witness_steps :
    (∃ t, step State.reset = .next t) ∧ (∃ t, step { openState with inputs := [.reset] } = .next t) ∧
    (∃ t, step (openState.issue (hostRreg 0x08#8)) = .next t) ∧ (∃ t, step (openState.issue hostSreset) = .next t) :=
  ⟨⟨_, rfl⟩, ⟨_, rfl⟩, ⟨_, rfl⟩, ⟨_, rfl⟩⟩

/-- `OnlySessionResetEndsStop`: a stop that begins, and one that ends. -/
theorem witness_stop :
    look (step (State.reset.issue hostStop)) (fun t => t.stopped) = some true ∧ State.reset.stopped = false ∧
    look (step (({ State.reset with stopped := true } : State).issue hostSreset)) (fun t => t.stopped) = some false := by
  decide

/-- `ExhaustedReplayStaysExhausted`: both register actions end it. -/
theorem witness_exhausted :
    (replayState [.three] 1 true).plan.exhausted = true ∧
    look (step ((replayState [.three] 1 true).issue hostRclear)) (fun t => t.plan.exhausted) = some false ∧
    look (step ((replayState [.three] 1 true).issue hostSreset)) (fun t => t.plan.exhausted) = some false := by decide

/-- `OnlyDatagramsAndResetsChangeCounters`, `OpenFragmentSurvivesOtherSteps`: a datagram changes both. -/
theorem witness_changes :
    look (step (openState.issue (hostFua 2#16 0x5C#8 false true 5#5 [0x43#8])))
      (fun t => (t.ctr.packets, t.frag)) = some (1, Frag.idle) ∧ openState.ctr.packets = 0 ∧
    openState.frag ≠ Frag.idle := by decide

end Sys2Proof.Tests
end

section
/-!
The NAL header byte (`spec/30_encoding.md` R85) and the header rebuilt from an FU indicator (R88). The place values of a
built byte are proved once; what the three fields of any byte are follows, since every byte is built of its fields.
-/
namespace Sys2Proof.Machine

theorem nalHeader_toNat (f : Bool) (nri : BitVec 2) (t : BitVec 5) :
    (nalHeader f nri t).toNat = 128 * f.toNat + 32 * nri.toNat + t.toNat := by
  rw [nalHeader, BitVec.toNat_append, BitVec.toNat_append, BitVec.toNat_ofBool,
    ← Nat.shiftLeft_add_eq_or_of_lt nri.isLt, ← Nat.shiftLeft_add_eq_or_of_lt t.isLt, Nat.shiftLeft_eq, Nat.shiftLeft_eq]
  omega

theorem toNat_eq_nalFields (b : Byte) :
    b.toNat = 128 * (nalF b).toNat + 32 * (nalNri b).toNat + (nalType b).toNat := by
  rw [← nalHeader_toNat, nalHeader_fields]

theorem nalNri_toNat (b : Byte) : (nalNri b).toNat = b.toNat / 32 % 4 := by
  have hb := toNat_eq_nalFields b
  have hnri := (nalNri b).isLt
  have htype := (nalType b).isLt
  omega

theorem nalType_toNat (b : Byte) : (nalType b).toNat = b.toNat % 32 := by
  have hb := toNat_eq_nalFields b
  have htype := (nalType b).isLt
  omega

theorem nalF_eq_decide (b : Byte) : nalF b = decide (b.toNat / 128 = 1) := by
  have hb := toNat_eq_nalFields b
  have hnri := (nalNri b).isLt
  have htype := (nalType b).isLt
  cases hf : nalF b <;> simp only [hf, Bool.toNat_true, Bool.toNat_false] at hb
  case false => exact (decide_eq_false (by omega)).symm
  case true => exact (decide_eq_true (by omega)).symm

/-- Settles O4: the place values of `nalHeader_toNat`, and the fields of a byte read off them. -/
theorem nalHeaderByteLayout : Obligations.NalHeaderByteLayout :=
  ⟨fun b => ⟨nalF_eq_decide b, nalNri_toNat b, nalType_toNat b, nalHeader_fields b⟩, nalHeader_toNat⟩

theorem rebuiltHeader_eq_nalHeader (fui : Byte) (ot : BitVec 5) :
    rebuiltHeader fui ot = nalHeader (nalF fui) (nalNri fui) ot := by
  conv_lhs => rw [← nalHeader_fields fui, rebuiltHeader_nalHeader]

/-- Settles O28: the rebuilt header is the NAL header of the indicator's `F` and `NRI` and the original type. -/
theorem rebuiltHeaderKeepsIndicatorBits : Obligations.RebuiltHeaderKeepsIndicatorBits := by
  intro fui ot
  rw [rebuiltHeader_eq_nalHeader]
  exact ⟨nalF_nalHeader .., nalNri_nalHeader .., nalType_nalHeader ..⟩

end Sys2Proof.Machine
end

section
/-!
The classifier's dispatch (`spec/41_nal_classifier.md` R130), abandonment (R134), and that no row but FU-A and the empty
payload leaves a fragment open (R135 (a)). The row of a payload is said once, by `decodePayload_cons`, in the number in
bits 4:0 of its first byte.
-/
namespace Sys2Proof.Machine

/-! ## The row of a payload -/

theorem nalType_eq_ofNat (b : Byte) : nalType b = BitVec.ofNat 5 (b.toNat % 32) := by
  rw [← nalType_toNat, BitVec.ofNat_toNat, BitVec.setWidth_eq]

/-- The free low bits of a type count from the first type `k` of the row, where the row is aligned to their number. -/
theorem nalType_setWidth (b : Byte) {w k : Nat} (hk : 2 ^ w ∣ k) (h : k ≤ b.toNat % 32) :
    (nalType b).setWidth w = BitVec.ofNat w (b.toNat % 32 - k) := by
  obtain ⟨c, rfl⟩ := hk
  apply BitVec.eq_of_toNat_eq
  rw [BitVec.toNat_setWidth, BitVec.toNat_ofNat, nalType_toNat, Nat.sub_mul_mod h]

/-- The type map of R130, with each row's operands counted from the first type of the row. -/
theorem decodePayload_cons (b : Byte) (body : Bytes) : decodePayload (b :: body) =
    let n := b.toNat % 32
    if n < 16 then .singleNalT0015 (nalF b) (nalNri b) (BitVec.ofNat 4 n) body
    else if n < 24 then .singleNalT1623 (nalF b) (nalNri b) (BitVec.ofNat 3 (n - 16)) body
    else if n = 24 then .stapA (nalF b) (nalNri b) body
    else if n = 25 then .unsupportedT25 (nalF b) (nalNri b) body
    else if n < 28 then .unsupportedT2627 (nalF b) (nalNri b) (BitVec.ofNat 1 (n - 26)) body
    else if n = 28 then .fuA (nalF b) (nalNri b) body
    else if n = 29 then .unsupportedT29 (nalF b) (nalNri b) body
    else .unsupportedT3031 (nalF b) (nalNri b) (BitVec.ofNat 1 (n - 30)) body := by
  simp only [decodePayload, nalCases, nalType_toNat]
  split_ifs
  · rw [nalType_setWidth b (Nat.dvd_zero _) (Nat.zero_le _), Nat.sub_zero]
  · rw [nalType_setWidth b (k := 16) (by decide) (by omega)]
  · rfl
  · rfl
  · rw [nalType_setWidth b (k := 26) (by decide) (by omega)]
  · rfl
  · rfl
  · rw [nalType_setWidth b (k := 30) (by decide) (by omega)]

theorem State.setNtype_cons (b : Byte) (body : Bytes) (s : State) :
    s.setNtype (b :: body) = { s with w := { s.w with ntype := BitVec.ofNat 5 (b.toNat % 32) } } := by
  rw [← nalType_eq_ofNat]; rfl

/-- Settles O20: the classifier runs the decoder's row (`classify_eq`), which `decodePayload_cons` gives by ranges. -/
theorem classifierDispatchesOnType : Obligations.ClassifierDispatchesOnType := by
  refine ⟨classify_eq [], fun s b body => ⟨decodePayload (b :: body), ?_, ?_⟩⟩
  · rw [classify_eq, State.setNtype_cons]
  · rw [decodePayload_cons]
    -- The range of each clause decides every test up to its row's.
    and_intros
    all_goals
      intros
      simp (disch := omega) only [if_pos, if_neg]

/-! ## The fragment after a row -/

@[simp] theorem State.singleNal_frag_active (pl : Bytes) (s : State) : (s.singleNal pl).frag.active = false := by
  rw [State.singleNal, State.emitNal_frag, State.abandonIfActive_frag_active]

@[simp] theorem State.unsupported_frag_active (s : State) : s.unsupported.frag.active = false := by
  rw [State.unsupported, State.raise_frag, State.abandonIfActive_frag_active]

@[simp] theorem State.stapLoop_frag (fuel : Nat) (rest : Bytes) (s : State) : (s.stapLoop fuel rest).frag = s.frag := by
  induction fuel generalizing rest s with
  | zero => rfl
  | succ fuel ih =>
    match rest with
    | [] => rfl
    | [_] => rfl
    | hi :: lo :: tail =>
      rw [State.stapLoop]
      split
      · rfl
      · rw [ih, State.setOff_frag, State.countStapa_frag, State.emitNal_frag, State.setUlen_frag]

/-- Settles O26: every row but FU-A abandons an open fragment before it does anything else, and none of these rows opens
one again. -/
theorem otherTypesCloseFragment : Obligations.OtherTypesCloseFragment := by
  intro s b body hfu
  rw [decodePayload_cons]
  dsimp only
  split_ifs
  · exact ⟨_, rfl, s.singleNal_frag_active _⟩
  · exact ⟨_, rfl, s.singleNal_frag_active _⟩
  · exact ⟨_, rfl, by rw [State.stapLoop_frag, State.setOff_frag, State.abandonIfActive_frag_active]⟩
  all_goals exact ⟨_, rfl, s.unsupported_frag_active⟩

/-- Settles O22: the two outcomes of `AbandonIfActive`. -/
theorem abandonDiscardsOpenFragment : Obligations.AbandonDiscardsOpenFragment :=
  fun s => ⟨s.abandonIfActive_of_active, s.abandonIfActive_of_idle⟩

end Sys2Proof.Machine
end

section
/-!
The start-code formatter (`spec/44_start_code.md`): the two start codes (R161), and that Replay mode puts out the
reference stream (R163). `Reproduces us s t` says of two states what R163 says of a stream: from `s` to `t` the units
`us` came out, each behind the start code of its own `SC()` call. It composes, every packet form of R162 has it where it
raises no event, and the recorded lengths come in only at the end, for the codes the `SC()` calls return.
-/
namespace Sys2Proof.Machine

open Sys2Proof.Claims

/-- Settles O35: the bytes are the definition's, and `startCode_cases` is that there is no third. -/
theorem startCodeBytes : Obligations.StartCodeBytes := ⟨rfl, rfl, startCode_cases⟩

/-! ## Instructions one after another -/

theorem runAll_cons_next {i : Instr} {s u : State} (h : exec i s = .next u) (l : List Instr) :
    runAll (i :: l) s = runAll l u := congrArg (List.foldl _ · l) h

theorem runAll_append_next {a : List Instr} {s u : State} (h : runAll a s = .next u) (b : List Instr) :
    runAll (a ++ b) s = runAll b u := by
  rw [runAll, List.foldl_append, ← runAll, h]; rfl

/-- Rows of the classifier and of FU-A complete one after another and only add events. -/
theorem runAll_payloadRows (l : List Instr) (hl : ∀ i ∈ l, isPayloadRow i = true) (s : State) :
    ∃ t e, runAll l s = .next t ∧ t.res.events = s.res.events ++ e := by
  induction l generalizing s with
  | nil => exact ⟨s, [], rfl, (List.append_nil _).symm⟩
  | cons i l ih =>
    obtain ⟨hi, hl⟩ := List.forall_mem_cons.mp hl
    obtain ⟨u, hu, heffect⟩ := payload_row s i hi
    obtain ⟨e, -, he, -⟩ := heffect.ev
    obtain ⟨t, e', ht, he'⟩ := ih hl u
    exact ⟨t, e ++ e', by rw [runAll_cons_next hu, ht], by rw [he', he, List.append_assoc]⟩

/-- The rows `l` complete from `s` and only add events: none where `calm` holds, and where there are none the state
reached satisfies `Q`. -/
def CompletesWith (l : List Instr) (s : State) (calm : Prop) (Q : State → Prop) : Prop :=
  ∃ t e, runAll l s = .next t ∧ t.res.events = s.res.events ++ e ∧ (calm → e = []) ∧ (e = [] → Q t)

section CompletesWith
variable {a l : List Instr} {i : Instr} {s u : State} {calm calm' : Prop} {P Q : State → Prop}

theorem CompletesWith.imp (h : CompletesWith l s calm P) (hcalm : calm' → calm) (hQ : ∀ t, P t → Q t) :
    CompletesWith l s calm' Q := by
  obtain ⟨t, e, ht, he, hquiet, hP⟩ := h
  exact ⟨t, e, ht, he, hquiet ∘ hcalm, hQ t ∘ hP⟩

theorem CompletesWith.of_quiet (h : runAll l s = .next u) (he : u.res.events = s.res.events) (hQ : Q u) :
    CompletesWith l s calm Q :=
  ⟨u, [], h, by rw [he, List.append_nil], fun _ => rfl, fun _ => hQ⟩

/-- A row that raises nothing, then the others. -/
theorem CompletesWith.quiet_cons (h : exec i s = .next u) (he : u.res.events = s.res.events)
    (hl : CompletesWith l u calm Q) : CompletesWith (i :: l) s calm Q := by
  rwa [CompletesWith, runAll_cons_next h, ← he]

/-- After a row that raises an event nothing is claimed but that the others complete. -/
theorem CompletesWith.noisy_cons {ev : Event} (h : exec i s = .next u) (he : u.res.events = s.res.events ++ [ev])
    (hcalm : ¬ calm) (hl : ∀ j ∈ l, isPayloadRow j = true) : CompletesWith (i :: l) s calm Q := by
  obtain ⟨t, e, ht, he'⟩ := runAll_payloadRows l hl u
  exact ⟨t, ev :: e, by rw [runAll_cons_next h, ht], by rw [he', he, List.append_assoc]; rfl,
    fun hc => absurd hc hcalm, fun hnil => absurd hnil (List.cons_ne_nil _ _)⟩

/-- Composition. The second part is asked for where the first raised nothing, so that it may use `P`. -/
theorem CompletesWith.append (ha : CompletesWith a s calm P) (hrows : ∀ i ∈ l, isPayloadRow i = true)
    (hl : ∀ u, P u → CompletesWith l u calm Q) : CompletesWith (a ++ l) s calm Q := by
  obtain ⟨u, e, hu, he, hquiet, hP⟩ := ha
  simp only [CompletesWith, runAll_append_next hu]
  by_cases hnil : e = []
  · subst hnil
    simpa only [CompletesWith, he, List.append_nil] using hl u (hP rfl)
  · obtain ⟨t, e', ht, he'⟩ := runAll_payloadRows l hrows u
    exact ⟨t, e ++ e', ht, by rw [he', he, List.append_assoc], fun hc => absurd (hquiet hc) hnil,
      fun h => absurd (List.append_eq_nil_iff.mp h).1 hnil⟩

end CompletesWith

/-! ## Units behind their start codes -/

/-- From `s` to `t` the Annex-B stream grew by the units `us`, each behind the start code of its own `SC()` call;
whether a fragment is open did not change. -/
structure Reproduces (us : List Bytes) (s t : State) : Prop where
  cfg : t.cfg = s.cfg
  active : t.frag.active = s.frag.active
  plan : t.plan = (Plan.take us.length s.plan).2
  stream : t.annexB = s.annexB ++ (List.zipWith (· ++ ·) (Plan.take us.length s.plan).1 us).flatten

theorem Reproduces.nil {s t : State} (hcfg : t.cfg = s.cfg) (hactive : t.frag.active = s.frag.active)
    (hplan : t.plan = s.plan) (hout : t.output = s.output) : Reproduces [] s t :=
  ⟨hcfg, hactive, hplan, by simp [State.annexB, hout]⟩

/-- One unit, taken out of one `SC()` call and one record. -/
theorem Reproduces.unit {u : Bytes} {s t : State} (hcfg : t.cfg = s.cfg) (hactive : t.frag.active = s.frag.active)
    (hplan : t.plan = s.plan.next.2) (hout : t.output = s.output ++ [s.nextStartCode ++ u]) : Reproduces [u] s t :=
  ⟨hcfg, hactive, hplan, by simp [State.annexB, hout, Plan.take, State.nextStartCode]⟩

theorem Reproduces.trans {us vs : List Bytes} {s t u : State} (h : Reproduces us s t) (g : Reproduces vs t u) :
    Reproduces (us ++ vs) s u where
  cfg := g.cfg.trans h.cfg
  active := g.active.trans h.active
  plan := by rw [g.plan, h.plan, List.length_append, Plan.take_add]
  stream := by
    rw [g.stream, h.stream, h.plan, List.length_append, Plan.take_add_codes,
      List.zipWith_append (Plan.take_length _ _), List.flatten_append, List.append_assoc]

/-! ## Single NAL units and aggregates -/

theorem Reproduces.emitNal (u : Bytes) (s : State) : Reproduces [u] s (s.emitNal u) := .unit rfl rfl rfl rfl

/-- One turn of the loop of R150 over a unit that is whole. -/
theorem State.stapLoop_stapUnit (fuel : Nat) {u : Bytes} (hu : u.length ≤ 65535) (rest : Bytes) (s : State) :
    s.stapLoop (fuel + 1) (stapUnit u ++ rest) =
      (((s.setUlen (BitVec.ofNat 16 u.length)).emitNal u).countStapa.setOff
        (s.w.off + 2 + (BitVec.ofNat 16 u.length).setWidth 17)).stapLoop fuel rest := by
  have hlen : (BitVec.ofNat 16 u.length).toNat = u.length := by rw [BitVec.toNat_ofNat, Nat.mod_eq_of_lt (by omega)]
  simp only [stapUnit, be16, List.cons_append, List.nil_append, State.stapLoop, be16_append, hlen]
  rw [if_neg (by rw [List.length_append]; omega), List.take_left, List.drop_left]
  rfl

theorem Reproduces.stapTurn (u : Bytes) (s : State) (ulen : BitVec 16) (off : BitVec 17) :
    Reproduces [u] s (((s.setUlen ulen).emitNal u).countStapa.setOff off) :=
  .unit (by simp) (by simp) (by simp) (by simp)

/-- The loop over whole units brings them all and raises nothing. -/
theorem Reproduces.stapLoop (us : List Bytes) (hus : ∀ u ∈ us, u.length ≤ 65535) (fuel : Nat)
    (hfuel : us.length ≤ fuel) (s : State) :
    Reproduces us s (s.stapLoop fuel (us.flatMap stapUnit)) ∧
      (s.stapLoop fuel (us.flatMap stapUnit)).res.events = s.res.events := by
  induction us generalizing fuel s with
  | nil =>
    have hstop : s.stapLoop fuel [] = s := by cases fuel <;> rfl
    rw [List.flatMap_nil, hstop]
    exact ⟨.nil rfl rfl rfl rfl, rfl⟩
  | cons u us ih =>
    obtain ⟨hu, hus⟩ := List.forall_mem_cons.mp hus
    obtain ⟨n, rfl⟩ : ∃ n, fuel = n + 1 := ⟨fuel - 1, by rw [List.length_cons] at hfuel; omega⟩
    rw [List.flatMap_cons, State.stapLoop_stapUnit n hu]
    obtain ⟨hrest, hevents⟩ := ih hus n (Nat.le_of_succ_le_succ hfuel) _
    exact ⟨(Reproduces.stapTurn u s _ _).trans hrest, hevents⟩

/-- The fuel of R150, one turn for each byte, is enough for the units. -/
theorem length_le_flatMap_stapUnit (us : List Bytes) : us.length ≤ (us.flatMap stapUnit).length := by
  induction us with
  | nil => exact Nat.le_refl 0
  | cons u us ih => simp only [List.flatMap_cons, List.length_append, List.length_cons, stapUnit, be16]; omega

/-! ## FU-A units -/

theorem fragFits_of_unbounded {c : Config} (h : c.maxFragBytes = none) (n : Nat) : fragFits c n = true := by
  simp [fragFits, h]

section Fu
variable {s : State} {f : Bool} {nri : BitVec 2} {r : Bool} {ot : BitVec 5} {frag : Bytes}

/-- `FuStart` with no fragment open, where the buffer holds the seed. -/
theorem State.fuStart_of_fits (start fin : Bool) (hidle : s.frag.active = false)
    (hfit : fragFits s.cfg (s.nextStartCode ++ nalHeader f nri ot :: frag).length = true) :
    (s.loadFu (nalHeader f nri 28#5) (fuHeader start fin r ot)).fuStart frag = { s.advancePlan with
      frag := ⟨true, ot, nalHeader f nri ot, s.nextStartCode ++ nalHeader f nri ot :: frag⟩
      w := fuOperands f nri start fin r ot s.w } := by
  rw [State.fuStart, State.abandonIfActive_of_idle (s.loadFu _ _) hidle, State.loadFu_eq]
  exact if_pos hfit

/-- `FuStart` with no fragment open, where the buffer does not hold the seed (R144). -/
theorem State.fuStart_of_overflow (start fin : Bool) (hidle : s.frag.active = false)
    (hfit : ¬ fragFits s.cfg (s.nextStartCode ++ nalHeader f nri ot :: frag).length = true) :
    (s.loadFu (nalHeader f nri 28#5) (fuHeader start fin r ot)).fuStart frag =
      ({ s.advancePlan with w := fuOperands f nri start fin r ot s.w } : State).raise .fragmentOverflow := by
  rw [State.fuStart, State.abandonIfActive_of_idle (s.loadFu _ _) hidle, State.loadFu_eq]
  exact if_neg hfit

/-- `FuCont` of a fragment the open buffer holds. -/
theorem State.fuCont_of_fits (start fin : Bool) (hopen : s.frag.active = true)
    (hfit : fragFits s.cfg (s.frag.acc.length + frag.length) = true) :
    (s.loadFu (nalHeader f nri 28#5) (fuHeader start fin r ot)).fuCont frag = (true, { s with
      frag := { s.frag with acc := s.frag.acc ++ frag }
      w := fuOperands f nri start fin r ot s.w }) := by
  rw [State.fuCont, if_pos (show (s.loadFu _ _).frag.active = true from hopen), State.loadFu_eq]
  exact if_pos hfit

/-- `FuCont` of a fragment the open buffer does not hold (R144). -/
theorem State.fuCont_of_overflow (start fin : Bool) (hopen : s.frag.active = true)
    (hfit : ¬ fragFits s.cfg (s.frag.acc.length + frag.length) = true) :
    (s.loadFu (nalHeader f nri 28#5) (fuHeader start fin r ot)).fuCont frag =
      (false, (({ s with w := fuOperands f nri start fin r ot s.w } : State).raise .fragmentOverflow).closeFrag) := by
  rw [State.fuCont, if_pos (show (s.loadFu _ _).frag.active = true from hopen), State.loadFu_eq]
  exact if_neg hfit

theorem State.fuEndIfActive_of_idle (s : State) (hidle : s.frag.active = false) : s.fuEndIfActive = s := by
  rw [State.fuEndIfActive, hidle]; rfl

/-- A unit in one packet. -/
theorem CompletesWith.startEnd (f : Bool) (nri : BitVec 2) (r : Bool) (ot : BitVec 5) (frag : Bytes)
    (hidle : s.frag.active = false) :
    CompletesWith [.fuAStartEnd f nri r ot frag] s (s.cfg.maxFragBytes = none)
      (Reproduces [nalHeader f nri ot :: frag] s) := by
  have hrow : exec (.fuAStartEnd f nri r ot frag) s =
    .next ((s.loadFu (nalHeader f nri 28#5) (fuHeader true true r ot)).fuStart frag).fuEndIfActive := rfl
  by_cases hfit : fragFits s.cfg (s.nextStartCode ++ nalHeader f nri ot :: frag).length = true
  · rw [State.fuStart_of_fits _ _ hidle hfit] at hrow
    exact .of_quiet (runAll_cons_next hrow []) rfl (.unit rfl hidle.symm rfl rfl)
  · rw [State.fuStart_of_overflow _ _ hidle hfit, State.fuEndIfActive_of_idle _ ?_] at hrow
    · exact .noisy_cons hrow rfl (fun hcalm => hfit (fragFits_of_unbounded hcalm _)) (List.forall_mem_nil _)
    · exact hidle

/-- From `s`, with a fragment open, to `t` the open buffer and the bytes `b` after it went out as one record. -/
structure Finishes (b : Bytes) (s t : State) : Prop where
  cfg : t.cfg = s.cfg
  active : t.frag.active = false
  plan : t.plan = s.plan
  output : t.output = s.output ++ [s.frag.acc ++ b]

/-- The last packet of a unit. -/
theorem CompletesWith.finish (last : FuPiece) (hopen : s.frag.active = true) :
    CompletesWith [.fuAEnd last.f last.nri last.r last.ot last.frag] s (s.cfg.maxFragBytes = none)
      (Finishes last.frag s) := by
  have hrow : exec (.fuAEnd last.f last.nri last.r last.ot last.frag) s =
    .next (let c := (s.loadFu (nalHeader last.f last.nri 28#5) (fuHeader false true last.r last.ot)).fuCont last.frag
      if c.1 then c.2.fuEndIfActive else c.2) := rfl
  by_cases hfit : fragFits s.cfg (s.frag.acc.length + last.frag.length) = true
  · rw [State.fuCont_of_fits _ _ hopen hfit] at hrow
    dsimp only at hrow
    rw [if_pos rfl, State.fuEndIfActive, if_pos hopen] at hrow
    exact .of_quiet (runAll_cons_next hrow []) rfl ⟨rfl, rfl, rfl, rfl⟩
  · rw [State.fuCont_of_overflow _ _ hopen hfit] at hrow
    exact .noisy_cons hrow rfl (fun hcalm => hfit (fragFits_of_unbounded hcalm _)) (List.forall_mem_nil _)

/-- The rows of a unit after its first packet. -/
def continuationRows (middles : List FuPiece) (last : FuPiece) : List Instr :=
  middles.map (fun p => .fuAMiddle p.f p.nri p.r p.ot p.frag) ++ [.fuAEnd last.f last.nri last.r last.ot last.frag]

theorem continuationRows_isPayloadRow (middles : List FuPiece) (last : FuPiece) :
    ∀ i ∈ continuationRows middles last, isPayloadRow i = true := by
  simp only [continuationRows, List.forall_mem_append, List.forall_mem_map, List.forall_mem_singleton]
  exact ⟨fun _ _ => rfl, rfl⟩

/-- The packets of a unit after its first. -/
theorem CompletesWith.continuation (middles : List FuPiece) (last : FuPiece) (hopen : s.frag.active = true) :
    CompletesWith (continuationRows middles last) s (s.cfg.maxFragBytes = none)
      (Finishes (middles.flatMap FuPiece.frag ++ last.frag) s) := by
  induction middles generalizing s with
  | nil => exact .finish last hopen
  | cons p middles ih =>
    have hrow : exec (.fuAMiddle p.f p.nri p.r p.ot p.frag) s =
      .next ((s.loadFu (nalHeader p.f p.nri 28#5) (fuHeader false false p.r p.ot)).fuCont p.frag).2 := rfl
    by_cases hfit : fragFits s.cfg (s.frag.acc.length + p.frag.length) = true
    · rw [State.fuCont_of_fits _ _ hopen hfit] at hrow
      refine .quiet_cons hrow rfl (CompletesWith.imp (ih ?_) id fun t ht => ⟨ht.cfg, ht.active, ht.plan, ?_⟩)
      · exact hopen
      · rw [ht.output, List.flatMap_cons, List.append_assoc, List.append_assoc]
    · rw [State.fuCont_of_overflow _ _ hopen hfit] at hrow
      exact .noisy_cons hrow rfl (fun hcalm => hfit (fragFits_of_unbounded hcalm _))
        (continuationRows_isPayloadRow middles last)

/-- A unit in fragments. -/
theorem CompletesWith.fragments (first last : FuPiece) (middles : List FuPiece) (hidle : s.frag.active = false) :
    CompletesWith (fuRows first middles last) s (s.cfg.maxFragBytes = none)
      (Reproduces [fuUnit first middles last] s) := by
  have hrow : exec (.fuAStart first.f first.nri first.r first.ot first.frag) s = .next
    ((s.loadFu (nalHeader first.f first.nri 28#5) (fuHeader true false first.r first.ot)).fuStart first.frag) := rfl
  by_cases hfit : fragFits s.cfg (s.nextStartCode ++ nalHeader first.f first.nri first.ot :: first.frag).length = true
  · rw [State.fuStart_of_fits _ _ hidle hfit] at hrow
    refine .quiet_cons hrow rfl ((CompletesWith.continuation middles last rfl).imp id fun t ht =>
      .unit ht.cfg (ht.active.trans hidle.symm) ht.plan ?_)
    rw [ht.output, fuUnit, List.append_assoc first.frag]
    simp [State.advancePlan]
  · rw [State.fuStart_of_overflow _ _ hidle hfit] at hrow
    exact .noisy_cons hrow rfl (fun hcalm => hfit (fragFits_of_unbounded hcalm _))
      (continuationRows_isPayloadRow middles last)

end Fu

/-! ## Packets of every form -/

theorem carrier_rows_isPayloadRow (c : Carrier) : ∀ i ∈ c.rows, isPayloadRow i = true := by
  cases c with
  | fragments first middles last =>
    exact List.forall_mem_cons.mpr ⟨rfl, continuationRows_isPayloadRow middles last⟩
  | _ => exact List.forall_mem_singleton.mpr rfl

/-- A packet form that finds no fragment open. -/
theorem carrier_completes_of_idle (c : Carrier) (hok : c.Ok) {s : State} (hidle : s.frag.active = false) :
    CompletesWith c.rows s (s.cfg.maxFragBytes = none) (Reproduces c.units s) := by
  have hsingle {i : Instr} {pl : Bytes} (hrow : exec i s = .next (s.singleNal pl)) :
      CompletesWith [i] s (s.cfg.maxFragBytes = none) (Reproduces [pl] s) := by
    rw [State.singleNal, s.abandonIfActive_of_idle hidle] at hrow
    exact .of_quiet (runAll_cons_next hrow []) rfl (.emitNal pl s)
  cases c with
  | singleLow f nri t body => exact hsingle rfl
  | singleHigh f nri t body => exact hsingle rfl
  | aggregate f nri units =>
    have hrow : exec (.stapA f nri (units.flatMap stapUnit)) s = .next
      ((s.abandonIfActive.setOff 1).stapLoop (units.flatMap stapUnit).length (units.flatMap stapUnit)) := rfl
    rw [s.abandonIfActive_of_idle hidle] at hrow
    have hoff : Reproduces [] s (s.setOff 1) := .nil rfl rfl rfl rfl
    obtain ⟨hunits, hevents⟩ :=
      Reproduces.stapLoop units hok _ (length_le_flatMap_stapUnit units) (s.setOff 1)
    exact .of_quiet (runAll_cons_next hrow []) hevents (hoff.trans hunits)
  | whole p => exact .startEnd p.f p.nri p.r p.ot p.frag hidle
  | fragments first middles last => exact .fragments first last middles hidle

/-- The first row of every packet form abandons an open fragment before it does anything else. -/
theorem carrier_runAll_abandonIfActive (c : Carrier) (s : State) :
    runAll c.rows s.abandonIfActive = runAll c.rows s := by
  have hidle : s.abandonIfActive.abandonIfActive = s.abandonIfActive :=
    State.abandonIfActive_of_idle _ s.abandonIfActive_frag_active
  have hsingle (pl : Bytes) : s.abandonIfActive.singleNal pl = s.singleNal pl := congrArg (State.emitNal pl) hidle
  have hstap (b : Bytes) : (s.abandonIfActive.abandonIfActive.setOff 1).stapLoop b.length b =
      (s.abandonIfActive.setOff 1).stapLoop b.length b := by rw [hidle]
  have hfu (a b : Byte) (frag : Bytes) : (s.abandonIfActive.loadFu a b).fuStart frag = (s.loadFu a b).fuStart frag := by
    have hload : (s.loadFu a b).abandonIfActive = s.abandonIfActive.loadFu a b := by
      rw [State.abandonIfActive_eq, State.abandonIfActive_eq]; rfl
    rw [State.fuStart, State.fuStart, hload,
      State.abandonIfActive_of_idle (s.abandonIfActive.loadFu a b) s.abandonIfActive_frag_active]
  cases c with
  | singleLow f nri t body => exact congrArg Host.Outcome.next (hsingle _)
  | singleHigh f nri t body => exact congrArg Host.Outcome.next (hsingle _)
  | aggregate f nri units => exact congrArg Host.Outcome.next (hstap (units.flatMap stapUnit))
  | whole p => exact congrArg (fun u => Host.Outcome.next u.fuEndIfActive) (hfu _ _ p.frag)
  | fragments first middles last => exact congrArg (runAll (continuationRows middles last)) (hfu _ _ first.frag)

/-- Every packet form, whatever it finds: an open fragment costs the event of its abandonment, after which nothing is
claimed. -/
theorem carrier_completes (c : Carrier) (hok : c.Ok) (s : State) :
    CompletesWith c.rows s (s.cfg.maxFragBytes = none ∧ s.frag.active = false) (Reproduces c.units s) := by
  cases hactive : s.frag.active with
  | false => exact (carrier_completes_of_idle c hok hactive).imp And.left fun _ => id
  | true =>
    obtain ⟨t, e, ht, he, -, -⟩ := carrier_completes_of_idle c hok s.abandonIfActive_frag_active
    rw [carrier_runAll_abandonIfActive c] at ht
    rw [s.abandonIfActive_of_active hactive, State.closeFrag_res, State.raise_res, List.append_assoc] at he
    exact ⟨t, _, ht, he, by simp, by simp⟩

/-- Any number of packets, one after another. -/
theorem completes_flatMap_rows (l : List Carrier) (hok : ∀ c ∈ l, c.Ok) (s : State) :
    CompletesWith (l.flatMap Carrier.rows) s (s.cfg.maxFragBytes = none ∧ s.frag.active = false)
      (Reproduces (l.flatMap Carrier.units) s) := by
  induction l generalizing s with
  | nil => exact .of_quiet rfl rfl (.nil rfl rfl rfl rfl)
  | cons c l ih =>
    obtain ⟨hc, hl⟩ := List.forall_mem_cons.mp hok
    have hrows : ∀ i ∈ l.flatMap Carrier.rows, isPayloadRow i = true := fun i hi => by
      obtain ⟨d, -, hd⟩ := List.mem_flatMap.mp hi
      exact carrier_rows_isPayloadRow d i hd
    rw [List.flatMap_cons, List.flatMap_cons]
    refine (carrier_completes c hc s).append hrows fun u hu => (ih hl u).imp ?_ fun t ht => hu.trans ht
    rw [hu.cfg, hu.active]; exact id

/-! ## The recorded lengths -/

/-- Replay mode returns the recorded lengths from the cursor on, as long as the list reaches. -/
theorem Plan.take_codes_of_replay (n : Nat) (p : Plan) (hmode : p.mode = .replay) (hexhausted : p.exhausted = false)
    (hlist : p.cursor + n ≤ p.list.length) : (Plan.take n p).1 = ((p.list.drop p.cursor).take n).map startCode := by
  induction n generalizing p with
  | zero => rfl
  | succ n ih =>
    have hcursor : p.cursor < p.list.length := by omega
    have hnext := p.next_replay hmode hexhausted (List.getElem?_eq_getElem hcursor)
    rw [Plan.take, hnext, ih { p with cursor := p.cursor + 1 } hmode hexhausted (by dsimp only; omega),
      List.drop_eq_getElem_cons hcursor, List.take_succ_cons, List.map_cons]

/-- Settles O37: `completes_flatMap_rows` gives the stream with the codes the `SC()` calls return, and these are the
recorded ones, since the list reaches to the last unit. -/
theorem replayReproducesStream : Obligations.ReplayReproducesStream := by
  intro s l hok hmode hexhausted hlist
  obtain ⟨t, e, ht, he, hcalm, hquiet⟩ := completes_flatMap_rows l hok s
  refine ⟨t, ht, fun hevents => ?_, fun hunbounded hidle => by rw [he, hcalm ⟨hunbounded, hidle⟩, List.append_nil]⟩
  have hnil : e = [] := by rwa [he, List.append_right_eq_self] at hevents
  rw [(hquiet hnil).stream, Plan.take_codes_of_replay _ _ hmode hexhausted hlist.le,
    List.take_of_length_le (by rw [List.length_drop]; omega), List.zipWith_map_left]

end Sys2Proof.Machine
end

section
/-!
The sequence tracker (`spec/45_sequence.md` R170 to R175). The delta on words is the delta modulo 65536 on numbers, its
range names the row, and every row leaves the state `tracked` with a counter block and a class of its own.
-/
namespace Sys2Proof.Machine

open Sys2Proof.Laws

/-! ## The row, as the round trip of its coded form gives it -/

theorem decodeSequence_lost {d : BitVec 16} (hlow : 2 ≤ d.toNat) (hhigh : d.toNat ≤ 32767) :
    decodeSequence (some d) = .seqLost d :=
  Except.ok.inj (RoundTrip.seqLost d (decide_eq_true ⟨hlow, hhigh⟩))

theorem decodeSequence_outOfOrder {d : BitVec 16} (hlow : 32768 ≤ d.toNat) :
    decodeSequence (some d) = .seqOutOfOrder d :=
  Except.ok.inj (RoundTrip.seqOutOfOrder d (decide_eq_true hlow))

/-! ## The delta -/

theorem State.seqDelta_of_not_valid {s : State} (hvalid : s.seq.valid = false) : s.seqDelta = none := by
  rw [State.seqDelta, hvalid]; rfl

/-- The subtraction of words wraps as R170's `mod 65536` does. -/
theorem State.seqDelta_of_valid {s : State} (hvalid : s.seq.valid = true) :
    s.seqDelta = some (BitVec.ofNat 16 ((s.w.seq.toNat + 65536 - s.seq.last.toNat) % 65536)) := by
  rw [State.seqDelta, if_pos hvalid]
  exact congrArg some (by bv_omega)

/-! ## The row's effect -/

/-- Once `SEQ_VALID` is set, recording the class leaves the tracker's state. -/
theorem State.noteSeq_eq_tracked {s : State} (hvalid : s.seq.valid = true) (ctr : Counters) (cls : SeqClass) (n : Nat) :
    ({ s with ctr := ctr } : State).noteSeq cls n = s.tracked ctr cls n := by
  simp only [State.noteSeq, State.tracked, hvalid]

theorem exec_seqFirst (s : State) : exec .seqFirst s = .next (s.tracked s.ctr .inOrder 0) := rfl

section Valid
variable {s : State} (hvalid : s.seq.valid = true)
include hvalid

theorem exec_seqDuplicate : exec .seqDuplicate s =
    .next (s.tracked { s.ctr with duplicate := s.ctr.duplicate + 1 } .duplicate 0) :=
  congrArg Host.Outcome.next (State.noteSeq_eq_tracked hvalid _ _ _)

theorem exec_seqInOrder : exec .seqInOrder s = .next (s.tracked s.ctr .inOrder 0) :=
  congrArg Host.Outcome.next (State.noteSeq_eq_tracked hvalid s.ctr _ _)

theorem exec_seqLost (d : BitVec 16) : exec (.seqLost d) s =
    .next (s.tracked { s.ctr with lost := s.ctr.lost + BitVec.ofNat 64 (d.toNat - 1) } .lost (d.toNat - 1)) :=
  congrArg Host.Outcome.next (State.noteSeq_eq_tracked hvalid _ _ _)

theorem exec_seqOutOfOrder (d : BitVec 16) : exec (.seqOutOfOrder d) s =
    .next (s.tracked { s.ctr with outOfOrder := s.ctr.outOfOrder + 1 } .outOfOrder 0) :=
  congrArg Host.Outcome.next (State.noteSeq_eq_tracked hvalid _ _ _)

end Valid

/-- Settles O9: `State.seqDelta_of_valid` gives the delta, its range the decoder's row, and the row's effect is the
state `tracked`, which is the one stated. -/
theorem trackerClassifiesByModularDelta : Obligations.TrackerClassifiesByModularDelta := by
  intro s delta row after
  have hnat : (BitVec.ofNat 16 delta).toNat = delta := Nat.mod_mod _ _
  have hrow (hvalid : s.seq.valid = true) : row = decodeSequence (some (BitVec.ofNat 16 delta)) :=
    congrArg decodeSequence (State.seqDelta_of_valid hvalid)
  refine ⟨fun hfirst => ?_, fun hvalid hdelta => ?_, fun hvalid hdelta => ?_, fun hvalid hlow hhigh => ?_,
    fun hvalid hlow => ?_⟩
  · have hr : row = .seqFirst := congrArg decodeSequence (State.seqDelta_of_not_valid hfirst)
    exact ⟨hr, hr ▸ exec_seqFirst s⟩
  · have hr : row = .seqDuplicate := by rw [hrow hvalid, hdelta]; rfl
    exact ⟨hr, hr ▸ exec_seqDuplicate hvalid⟩
  · have hr : row = .seqInOrder := by rw [hrow hvalid, hdelta]; rfl
    exact ⟨hr, hr ▸ exec_seqInOrder hvalid⟩
  · have hr := (hrow hvalid).trans (decodeSequence_lost (hnat.symm ▸ hlow) (hnat.symm ▸ hhigh))
    have hexec := exec_seqLost hvalid (BitVec.ofNat 16 delta)
    rw [hnat] at hexec
    exact ⟨hr, hr ▸ hexec⟩
  · have hr := (hrow hvalid).trans (decodeSequence_outOfOrder (hnat.symm ▸ hlow))
    exact ⟨hr, hr ▸ exec_seqOutOfOrder hvalid _⟩

end Sys2Proof.Machine
end

section
/-!
The host's scanner on a stream of clean units (`spec/47_host_annexb_scanner.md` R200 to R202). `Scan` takes a start code
as one match and passes over a clean unit without one; so its matches stand where the start codes were put, the slices
between them are the units, and `Units` reads each unit back.
-/
namespace Sys2Proof.Machine

open Sys2Proof.Claims

/-! ## Start codes at the cursor -/

/-- R90: a start code is zeros and then `01`. -/
theorem startCode_eq_zeros (n : ScLen) : startCode n = List.replicate (n.bytes - 1) 0x00#8 ++ [0x01#8] := by
  cases n <;> rfl

theorem length_startCode (n : ScLen) : (startCode n).length = n.bytes := by cases n <;> rfl

theorem three_isInfix_startCode (n : ScLen) : startCode .three <:+: startCode n := by
  cases n
  · exact List.infix_rfl
  · exact ⟨[0x00#8], [], rfl⟩

/-- No start code begins inside a unit that holds none and does not end in `00`, whatever follows the unit: one that
ran past the unit's end would have the unit's last byte among its zeros. -/
theorem not_startCode_isPrefix_append (n : ScLen) {u : Bytes} (r : Bytes) (hne : u ≠ [])
    (hlast : u.getLast? ≠ some 0#8) (hcode : ¬ startCode .three <:+: u) : ¬ startCode n <+: u ++ r := by
  intro h
  have hinside : ¬ startCode n <+: u := fun hp => hcode ((three_isInfix_startCode n).trans hp.isInfix)
  obtain hp | hp := List.prefix_or_prefix_of_prefix h (List.prefix_append u r)
  · exact hinside hp
  · rw [startCode_eq_zeros, List.prefix_concat_iff, ← startCode_eq_zeros] at hp
    obtain rfl | hzeros := hp
    · exact hinside List.prefix_rfl
    · rw [List.prefix_replicate_iff] at hzeros
      apply hlast
      rw [hzeros.2, List.getLast?_replicate, if_neg (by simpa using hne)]

theorem startCodeAt_append_of_clean {u : Bytes} (r : Bytes) (hne : u ≠ []) (hlast : u.getLast? ≠ some 0#8)
    (hcode : ¬ startCode .three <:+: u) : startCodeAt (u ++ r) = none := by
  rw [startCodeAt, if_neg (not_startCode_isPrefix_append .four r hne hlast hcode),
    if_neg (not_startCode_isPrefix_append .three r hne hlast hcode)]

/-! ## `Scan` -/

/-- `Scan` matches a start code whole, with its length, and goes on behind it. -/
theorem scanFrom_startCode_append (n : ScLen) (i : Nat) (r : Bytes) :
    scanFrom i 0 (startCode n ++ r) = (i, n) :: scanFrom (i + n.bytes) 0 r := by
  cases n <;> simp [startCode, startCodeAt, scanFrom, ScLen.bytes]

/-- `Scan` passes over a clean unit. -/
theorem scanFrom_append_of_clean (u : Bytes) (i : Nat) (r : Bytes) (hlast : u.getLast? ≠ some 0#8)
    (hcode : ¬ startCode .three <:+: u) : scanFrom i 0 (u ++ r) = scanFrom (i + u.length) 0 r := by
  induction u generalizing i with
  | nil => rfl
  | cons x u ih =>
    have hlast' : u.getLast? ≠ some 0#8 := by
      cases u with
      | nil => simp
      | cons y u => rwa [List.getLast?_cons_cons] at hlast
    have hstep : scanFrom i 0 (x :: u ++ r) = scanFrom (i + 1) 0 (u ++ r) := by
      have hnone := startCodeAt_append_of_clean r (List.cons_ne_nil x u) hlast hcode
      rw [List.cons_append] at hnone ⊢
      rw [scanFrom, hnone]
    rw [hstep, ih (i + 1) hlast' fun h => hcode (List.infix_cons h), List.length_cons, Nat.add_assoc, Nat.add_comm 1]

/-- The stream of units behind their start codes. -/
def annexBStream (l : List (ScLen × Bytes)) : Bytes := l.flatMap fun x => startCode x.1 ++ x.2

theorem annexBStream_cons (n : ScLen) (u : Bytes) (l : List (ScLen × Bytes)) :
    annexBStream ((n, u) :: l) = startCode n ++ (u ++ annexBStream l) := by
  rw [annexBStream, List.flatMap_cons, List.append_assoc, annexBStream]

/-- Where the start codes of `annexBStream l` stand in a buffer that holds the stream from position `i` on. -/
def startCodePositions (i : Nat) : List (ScLen × Bytes) → List (Nat × ScLen)
  | [] => []
  | (n, u) :: l => (i, n) :: startCodePositions (i + n.bytes + u.length) l

/-- R200 on a stream of clean units: the matches are the start codes put there, and no others. -/
theorem scanFrom_annexBStream (l : List (ScLen × Bytes)) (hclean : ∀ x ∈ l, CleanUnit x.2) (i : Nat) :
    scanFrom i 0 (annexBStream l) = startCodePositions i l := by
  induction l generalizing i with
  | nil => rfl
  | cons x l ih =>
    obtain ⟨n, u⟩ := x
    obtain ⟨⟨-, hlast, hcode⟩, htail⟩ := List.forall_mem_cons.mp hclean
    rw [annexBStream_cons, scanFrom_startCode_append, scanFrom_append_of_clean u _ _ hlast hcode, ih htail,
      startCodePositions]

/-! ## `Units` -/

/-- R201: between the start codes' positions lie the units. -/
theorem slices_startCodePositions (b : Bytes) (l : List (ScLen × Bytes)) (i : Nat) (hb : b.drop i = annexBStream l) :
    slices b (startCodePositions i l) = l := by
  induction l generalizing i with
  | nil => rfl
  | cons x l ih =>
    obtain ⟨n, u⟩ := x
    have hunit : b.drop (i + n.bytes) = u ++ annexBStream l := by
      rw [← List.drop_drop, hb, annexBStream_cons, ← length_startCode, List.drop_left]
    have hrest : b.drop (i + n.bytes + u.length) = annexBStream l := by
      rw [← List.drop_drop, hunit, List.drop_left]
    cases l with
    | nil => simp [startCodePositions, slices, hunit, annexBStream]
    | cons y l =>
      have htail := ih _ hrest
      rw [startCodePositions] at htail ⊢
      rw [startCodePositions, slices, htail, hunit, Nat.add_sub_cancel_left, List.take_left]

/-- R85: the fields of a unit's bytes give the bytes back. -/
theorem nalUnitBytes_nalUnit (b : Byte) (payload : Bytes) : nalUnitBytes (nalUnit b payload) = b :: payload := by
  rw [nalUnitBytes, nalUnit, nalHeader_fields]

/-- R201: under either policy every slice that is a clean unit is kept, so none is skipped and none fails. -/
theorem collectUnits_of_clean (policy : ScanPolicy) (l : List (ScLen × Bytes)) (hclean : ∀ x ∈ l, CleanUnit x.2) :
    ∃ us, collectUnits policy l = some us ∧
      us.nals.map nalUnitBytes = l.map Prod.snd ∧ us.lens = l.map Prod.fst ∧ us.skipped = 0 := by
  induction l with
  | nil => exact ⟨⟨[], [], 0⟩, rfl, rfl, rfl, rfl⟩
  | cons x l ih =>
    obtain ⟨n, u⟩ := x
    obtain ⟨⟨⟨b, payload, hu, hf⟩, -, -⟩, htail⟩ := List.forall_mem_cons.mp hclean
    obtain ⟨us, hus, hnals, hlens, hskipped⟩ := ih htail
    subst hu
    refine ⟨{ us with nals := nalUnit b payload :: us.nals, lens := n :: us.lens }, ?_, ?_, ?_, hskipped⟩
    · simp [collectUnits, hf, hus]
    · rw [List.map_cons, nalUnitBytes_nalUnit, hnals, List.map_cons]
    · rw [hlens, List.map_cons]

/-- Settles O38: the scan finds the start codes put into the stream, the slices between them are the units, and each
is collected. -/
theorem scannerRecoversCleanUnits : Obligations.ScannerRecoversCleanUnits := by
  intro c l hclean
  have hslices : slices (annexBStream l) (scan (annexBStream l)) = l := by
    rw [scan, scanFrom_annexBStream l hclean]
    exact slices_startCodePositions (annexBStream l) l 0 rfl
  obtain ⟨us, hus, hnals, hlens, hskipped⟩ := collectUnits_of_clean c.scanForbidden l hclean
  have hunits : units c (annexBStream l) = some us := by rw [units, hslices, hus]
  change (units c (annexBStream l)).map _ = _
  rw [hunits, Option.map_some, hnals, hlens, hskipped]

end Sys2Proof.Machine
end

section
/-!
Events (`spec/60_exceptions.md`): `raise` is the one way an error is reported (R212, R213).
-/
namespace Sys2Proof.Machine

/-- Settles O21: R212 is the definition of `State.raise`, so the two states are the same term once it is unfolded. -/
theorem raiseCountsAndRecords : Obligations.RaiseCountsAndRecords := by
  intro ev s
  rw [State.raise]

end Sys2Proof.Machine
end

section
/-!
The encoder and the decoders (`spec/30_encoding.md`). The round trip of every row stands in `Laws/PerInstr.lean`; here
it is put together, and the converse is said once for each decode level: what the level's decoder answers is well
formed, and encodes to what the decoder was given.
-/
namespace Sys2Proof.Machine

open Sys2Proof.Laws

/-- Settles O1: the round trip of each row. -/
theorem encodedInstructionDecodesBack : Obligations.EncodedInstructionDecodesBack
  | .rtpAcceptV2 p x cc => RoundTrip.rtpAcceptV2 p x cc
  | .rtpDropV0 p x cc => RoundTrip.rtpDropV0 p x cc
  | .rtpDropV1 p x cc => RoundTrip.rtpDropV1 p x cc
  | .rtpDropV3 p x cc => RoundTrip.rtpDropV3 p x cc
  | .singleNalT0015 f nri t body => RoundTrip.singleNalT0015 f nri t body
  | .singleNalT1623 f nri t body => RoundTrip.singleNalT1623 f nri t body
  | .stapA f nri units => RoundTrip.stapA f nri units
  | .unsupportedT25 f nri body => RoundTrip.unsupportedT25 f nri body
  | .unsupportedT2627 f nri t body => RoundTrip.unsupportedT2627 f nri t body
  | .fuA f nri body => RoundTrip.fuA f nri body
  | .unsupportedT29 f nri body => RoundTrip.unsupportedT29 f nri body
  | .unsupportedT3031 f nri t body => RoundTrip.unsupportedT3031 f nri t body
  | .emptyPayload => RoundTrip.emptyPayload
  | .fuAMiddle f nri r ot frag => RoundTrip.fuAMiddle f nri r ot frag
  | .fuAEnd f nri r ot frag => RoundTrip.fuAEnd f nri r ot frag
  | .fuAStart f nri r ot frag => RoundTrip.fuAStart f nri r ot frag
  | .fuAStartEnd f nri r ot frag => RoundTrip.fuAStartEnd f nri r ot frag
  | .fuATooShort f nri => RoundTrip.fuATooShort f nri
  | .seqDuplicate => RoundTrip.seqDuplicate
  | .seqInOrder => RoundTrip.seqInOrder
  | .seqLost delta => RoundTrip.seqLost delta
  | .seqOutOfOrder delta => RoundTrip.seqOutOfOrder delta
  | .seqFirst => RoundTrip.seqFirst
  | .dgram d => RoundTrip.dgram d
  | .regRead off => RoundTrip.regRead off
  | .regWrite off v => RoundTrip.regWrite off v
  | .reservedKind3 low => RoundTrip.reservedKind3 low
  | .ctrlStop v => RoundTrip.ctrlStop v
  | .ctrlSessionReset v => RoundTrip.ctrlSessionReset v
  | .ctrlReplayClear v => RoundTrip.ctrlReplayClear v
  | .scCfgWrite v => RoundTrip.scCfgWrite v
  | .replayPushWrite v => RoundTrip.replayPushWrite v

/-! ## What the decoders answer is well formed -/

theorem decodeVersion_wellFormed (b : Byte) : (decodeVersion b).wellFormed = true := by
  unfold decodeVersion versionCases
  split_ifs <;> rfl

theorem decodePayload_wellFormed {pl : Bytes} (hpl : pl.length ≤ maxPayloadBytes) :
    (decodePayload pl).wellFormed = true := by
  cases pl with
  | nil => rfl
  | cons b body =>
    have hfits : bodyFits body = true := decide_eq_true hpl
    unfold decodePayload nalCases
    dsimp only
    split_ifs <;> exact hfits

theorem decodeFu_wellFormed (f : Bool) (nri : BitVec 2) {body : Bytes} (hbody : body.length + 1 ≤ maxPayloadBytes) :
    (decodeFu f nri body).wellFormed = true := by
  cases body with
  | nil => rfl
  | cons fuh frag =>
    have hfits : decide (frag.length + 2 ≤ maxPayloadBytes) = true := decide_eq_true hbody
    unfold decodeFu fuCases
    dsimp only
    split_ifs <;> exact hfits

theorem decodeSequence_wellFormed (delta : Option (BitVec 16)) : (decodeSequence delta).wellFormed = true := by
  cases delta with
  | none => rfl
  | some d =>
    unfold decodeSequence seqCases
    dsimp only
    split_ifs
    · rfl
    · rfl
    · exact decide_eq_true (by omega)
    · exact decide_eq_true (by omega)

theorem decodeWrite_wellFormed {off : BitVec 8} (hoff : offsetOk off = true) (v : Reg64) :
    (decodeWrite off v).wellFormed = true := by
  unfold decodeWrite
  -- The tests the row passed, and those it failed before, are the row's conditions.
  split_ifs <;> simp_all [Instr.wellFormed]

theorem decodeTxn_wellFormed {x : HostTxn} {i : Instr} (h : decodeTxn x = .ok i) : i.wellFormed = true := by
  obtain ⟨low, rfl⟩ | ⟨d, -, hd, rfl⟩ | ⟨off, -, hoff, rfl⟩ | ⟨off, v, -, hoff, rfl⟩ := decodeTxn_ok h
  · rfl
  · exact decide_eq_true hd
  · exact hoff
  · exact decodeWrite_wellFormed hoff v

/-- The FU-A level reads payloads of type 28 that fit a datagram, and no others. -/
theorem decodeCode_fuPayload_ok {pl : Bytes} {i : Instr} (h : decodeCode (.fuPayload pl) = .ok i) :
    ∃ f nri body, pl = nalHeader f nri 28#5 :: body ∧ pl.length ≤ maxPayloadBytes ∧ i = decodeFu f nri body := by
  dsimp only [decodeCode] at h
  split_ifs at h with hlen
  cases pl with
  | nil => cases h
  | cons b body =>
    dsimp only at h
    split_ifs at h with htype
    cases h
    exact ⟨nalF b, nalNri b, body, by rw [← htype, nalHeader_fields], by omega, rfl⟩

theorem decodeCode_payload_ok {pl : Bytes} {i : Instr} (h : decodeCode (.payload pl) = .ok i) :
    pl.length ≤ maxPayloadBytes ∧ i = decodePayload pl := by
  dsimp only [decodeCode] at h
  split_ifs at h with hlen
  cases h
  exact ⟨by omega, rfl⟩

/-- Settles O2: what each level's decoder answers. -/
theorem decodersAnswerWellFormed : Obligations.DecodersAnswerWellFormed := by
  intro c i h
  cases c with
  | versionByte b => cases h; exact decodeVersion_wellFormed b
  | payload pl =>
    obtain ⟨hlen, rfl⟩ := decodeCode_payload_ok h
    exact decodePayload_wellFormed hlen
  | fuPayload pl =>
    obtain ⟨f, nri, body, rfl, hlen, rfl⟩ := decodeCode_fuPayload_ok h
    exact decodeFu_wellFormed f nri hlen
  | sequence delta => cases h; exact decodeSequence_wellFormed delta
  | host t => exact decodeTxn_wellFormed h

/-! ## What the decoders answer encodes back -/

theorem version_eq_three : ∀ v : BitVec 2, v ≠ 2#2 → v ≠ 0#2 → v ≠ 1#2 → v = 3#2 := by decide

theorem encode_decodeVersion (b : Byte) : encode (decodeVersion b) = .versionByte b := by
  have hb := rtpByte0_fields b
  unfold decodeVersion versionCases
  generalize b.extractLsb' 6 2 = v at hb ⊢
  split_ifs with h2 h0 h1
  · rw [encode, ← h2, hb]
  · rw [encode, ← h0, hb]
  · rw [encode, ← h1, hb]
  · rw [encode, ← version_eq_three v h2 h0 h1, hb]

theorem encode_decodePayload (pl : Bytes) : encode (decodePayload pl) = .payload pl := by
  cases pl with
  | nil => rfl
  | cons b body =>
    have hb (t : BitVec 5) (ht : t = nalType b) : nalHeader (nalF b) (nalNri b) t = b := by
      rw [ht, nalHeader_fields]
    have htype (n : Nat) (hn : n < 32) (h : (nalType b).toNat = n) : BitVec.ofNat 5 n = nalType b := by
      rw [← h, BitVec.ofNat_toNat, BitVec.setWidth_eq]
    have hlt := (nalType b).isLt
    unfold decodePayload nalCases
    dsimp only
    split_ifs <;> rw [encode, hb]
    · exact type_row0 _ ‹_›
    · exact type_row1 _ ‹_› ‹_›
    · exact htype 24 (by omega) ‹_›
    · exact htype 25 (by omega) ‹_›
    · exact type_row26 _ (by omega) ‹_›
    · exact htype 28 (by omega) ‹_›
    · exact htype 29 (by omega) ‹_›
    · exact type_row30 _ (by omega)

theorem encode_decodeFu (f : Bool) (nri : BitVec 2) (body : Bytes) :
    encode (decodeFu f nri body) = .fuPayload (nalHeader f nri 28#5 :: body) := by
  cases body with
  | nil => rfl
  | cons fuh frag =>
    have hfuh := fuHeader_fields fuh
    unfold decodeFu fuCases
    dsimp only
    split_ifs with hs he he
    all_goals
      simp only [hs, he] at hfuh
      rw [encode, hfuh]

theorem encode_decodeSequence (delta : Option (BitVec 16)) : encode (decodeSequence delta) = .sequence delta := by
  cases delta with
  | none => rfl
  | some d =>
    have hd (n : Nat) (h : d.toNat = n) : BitVec.ofNat 16 n = d := by rw [← h, BitVec.ofNat_toNat, BitVec.setWidth_eq]
    unfold decodeSequence seqCases
    dsimp only
    split_ifs with h0 h1
    · rw [encode, hd 0 h0]
    · rw [encode, hd 1 h1]
    · rfl
    · rfl

theorem encode_decodeWrite (off : BitVec 8) (v : Reg64) : encode (decodeWrite off v) = .host (writeTxn off v) := by
  unfold decodeWrite
  split_ifs with h0 _ _ _ h10 h18
  · rw [encode, h0]
  · rw [encode, h0]
  · rw [encode, h0]
  · rfl
  · rw [encode, h10]
  · rw [encode, h18]
  · rfl

theorem decodeWrite_ne_reservedKind3 (off : BitVec 8) (v : Reg64) (low : BitVec 14) :
    decodeWrite off v ≠ .reservedKind3 low := by
  unfold decodeWrite
  split_ifs <;> exact nofun

/-- Only a command word with `KIND = 3` decodes to `RESERVED_KIND3`, with its low bits as the operand. -/
theorem decodeTxn_reservedKind3 {x : HostTxn} {low : BitVec 14} (h : decodeTxn x = .ok (.reservedKind3 low)) :
    x.cw = 3#2 ++ low := by
  obtain ⟨cw, data⟩ := x
  by_cases hkind : cw.extractLsb' 14 2 = 3#2
  · simp only [decodeTxn, if_pos hkind, Except.ok.injEq, Instr.reservedKind3.injEq] at h
    rw [← hkind, ← h]
    exact (BitVec.extractLsb'_append_extractLsb' (w := 2) (len := 14)).symm
  · revert h
    simp only [decodeTxn, if_neg hkind]
    repeat' split
    all_goals simp [decodeWrite_ne_reservedKind3]

/-- Settles O3: each level's decoder encodes back, but for the data that `RESERVED_KIND3` does not keep. -/
theorem decodingLosesNoBit : Obligations.DecodingLosesNoBit := by
  intro c i h
  cases c with
  | versionByte b => cases h; exact .inl (encode_decodeVersion b)
  | payload pl =>
    obtain ⟨-, rfl⟩ := decodeCode_payload_ok h
    exact .inl (encode_decodePayload pl)
  | fuPayload pl =>
    obtain ⟨f, nri, body, rfl, -, rfl⟩ := decodeCode_fuPayload_ok h
    exact .inl (encode_decodeFu f nri body)
  | sequence delta => cases h; exact .inl (encode_decodeSequence delta)
  | host t =>
    have htxn : decodeTxn t = .ok i := h
    obtain ⟨low, rfl⟩ | ⟨d, rfl, -, rfl⟩ | ⟨off, rfl, -, rfl⟩ | ⟨off, v, rfl, -, rfl⟩ := decodeTxn_ok htxn
    · exact .inr ⟨low, t.data, rfl, by rw [← decodeTxn_reservedKind3 htxn]⟩
    · exact .inl rfl
    · exact .inl rfl
    · exact .inl (encode_decodeWrite off v)

/-- Settles O5: each decoder run on the written word. -/
theorem sampleWordsDecode : Obligations.SampleWordsDecode := by
  unfold Obligations.SampleWordsDecode
  decide

end Sys2Proof.Machine
end

section
/-!
The host's side (`spec/46_host_commands.md`, `spec/10_state.md` R28 to R36): what one step runs, what the interface
refuses, and what a register read and a register write do.
-/
namespace Sys2Proof.Machine

/-! ## One step -/

section
variable {s : State} {rest : List HostInput} {x : HostTxn}

theorem step_of_idle (h : s.inputs = []) : step s = .next s := by
  rw [step, State.takeInput, h]

theorem step_of_reset (h : s.inputs = .reset :: rest) :
    step s = .next { State.reset with cfg := s.cfg, inputs := rest } := by
  rw [step, State.takeInput, h]; rfl

theorem step_of_decoded (h : s.inputs = .txn x :: rest) {i : Instr} (hx : decodeTxn x = .ok i) :
    step s = exec i { s with inputs := rest } := by
  rw [step, State.takeInput, h]; dsimp only; rw [hx]

theorem step_of_undecodable (h : s.inputs = .txn x :: rest) {e : DecodeError} (hx : decodeTxn x = .error e) :
    step s = .refused (.undecodable e) := by
  rw [step, State.takeInput, h]; dsimp only; rw [hx]

end

/-- Settles O6: the four inputs a step can meet. -/
theorem stepRunsDecodedInstruction : Obligations.StepRunsDecodedInstruction := fun _ =>
  ⟨step_of_idle, fun _ => step_of_reset, fun _ _ _ h hx => step_of_decoded h hx,
    fun _ _ _ h hx => step_of_undecodable h hx⟩

/-! ## What is refused -/

theorem execRegRead_of_not_offsetOk {off : BitVec 8} (hoff : offsetOk off = false) (s : State) :
    exec (.regRead off) s = .refused (.undecodable .badOffset) := by
  simp [exec, execRegRead, hoff]

theorem execRegWrite_of_not_offsetOk {off : BitVec 8} (hoff : offsetOk off = false) (v : Reg64) (s : State) :
    exec (.regWrite off v) s = .refused (.undecodable .badOffset) := by
  simp [exec, execRegWrite, hoff]

/-- Settles O8: the length check of `DGRAM` and the offset check of the register accesses. -/
theorem reservedKindIsRefused : Obligations.ReservedKindIsRefused := by
  refine ⟨fun _ _ => rfl, fun d s hd => if_neg (Nat.not_le.mpr hd), fun off v s hoff => ?_⟩
  have hbad : offsetOk off = false := beq_false_of_ne hoff
  exact ⟨execRegRead_of_not_offsetOk hbad s, execRegWrite_of_not_offsetOk hbad v s⟩

/-- A word put together from two reads as the sum of its parts at their places. -/
theorem toNat_append_eq_add {m n : Nat} (a : BitVec m) (b : BitVec n) :
    (a ++ b).toNat = 2 ^ n * a.toNat + b.toNat := by
  rw [BitVec.toNat_append, ← Nat.shiftLeft_add_eq_or_of_lt b.isLt, Nat.shiftLeft_eq, Nat.mul_comm]

theorem commandWord_toNat (kind : BitVec 2) (off : BitVec 8) :
    (commandWord kind off).toNat = 16384 * kind.toNat + off.toNat := by
  simp only [commandWord, toNat_append_eq_add, BitVec.toNat_ofNat]
  omega

theorem offsetOk_iff (off : BitVec 8) : offsetOk off = true ↔ off.toNat % 8 = 0 := beq_iff_eq

/-- Settles O7: by `decodeTxn_ok` a transaction that decodes is of `KIND` 3, which `exec` refuses, or is one of three
forms, whose command words meet none of the conditions. -/
theorem refusedTransactionsTakeNoStep : Obligations.RefusedTransactionsTakeNoStep := by
  intro s x rest hinputs hbad
  cases hx : decodeTxn x with
  | error e => exact ⟨_, step_of_undecodable hinputs hx⟩
  | ok i =>
    rw [step_of_decoded hinputs hx]
    obtain ⟨low, rfl⟩ | ⟨d, rfl, hd, -⟩ | ⟨off, rfl, hoff, -⟩ | ⟨off, v, rfl, hoff, -⟩ := decodeTxn_ok hx
    · exact ⟨_, rfl⟩
    · have hcw : (dgramTxn d).cw.toNat = 0 := commandWord_toNat _ _
      obtain h | h | h | ⟨-, len, bytes, hdata, hlen⟩ | h := hbad
      case inr.inr.inr.inl =>
        cases hdata
        have := Nat.mod_le d.length (2 ^ 17)
        rw [BitVec.toNat_ofNat] at hlen
        unfold maxDgramBytes at hd
        omega
      all_goals omega
    · have hcw : (readTxn off).cw.toNat = 16384 * 1 + off.toNat := commandWord_toNat _ _
      have hlt := off.isLt
      rw [offsetOk_iff] at hoff
      omega
    · have hcw : (writeTxn off v).cw.toNat = 16384 * 2 + off.toNat := commandWord_toNat _ _
      have hlt := off.isLt
      rw [offsetOk_iff] at hoff
      omega

/-! ## Register reads -/

/-- Settles O39: the offset check passes. -/
theorem registerReadAnswersOnly : Obligations.RegisterReadAnswersOnly :=
  fun off _ hoff => if_pos ((offsetOk_iff off).mpr hoff)

theorem State.statusWord_toNat (s : State) : s.statusWord.toNat =
    s.stopped.toNat + 2 * s.frag.active.toNat + 4 * s.seq.valid.toNat + 8 * s.plan.exhausted.toNat +
      2 ^ 8 * s.frag.ot.toNat + 2 ^ 16 * s.frag.hdr.toNat + 2 ^ 32 * s.seq.last.toNat := by
  simp only [State.statusWord, toNat_append_eq_add, BitVec.toNat_ofBool, BitVec.toNat_ofNat]
  omega

theorem State.scCfgWord_toNat (s : State) :
    s.scCfgWord.toNat = s.plan.mode.bit.toNat + 2 * s.plan.len.bit.toNat := by
  simp only [State.scCfgWord, toNat_append_eq_add, BitVec.toNat_ofBool, BitVec.toNat_ofNat]
  omega

theorem State.replayStatusWord_toNat (s : State) : s.replayStatusWord.toNat =
    s.plan.list.length % 2 ^ 32 + 2 ^ 32 * (s.plan.cursor % 2 ^ 32) := by
  rw [State.replayStatusWord, toNat_append_eq_add, BitVec.toNat_ofNat, BitVec.toNat_ofNat, Nat.add_comm]

/-- Nothing is mapped from 0x90 on. -/
theorem State.regValue_of_unmapped (s : State) {off : BitVec 8} (hoff : 0x90 ≤ off.toNat) : s.regValue off = 0 := by
  unfold State.regValue
  split
  case h_15 => rfl
  all_goals omega

/-- Settles O40: the views as numbers; the counters and the offsets that read 0 are the definition's. -/
theorem registerMapValues : Obligations.RegisterMapValues := fun s =>
  ⟨s.statusWord_toNat, s.scCfgWord_toNat, s.replayStatusWord_toNat, BitVec.toNat_ofNat _ _, rfl, rfl, rfl, rfl, rfl,
    fun _ => s.regValue_of_unmapped⟩

/-- Settles O45: the reset state is a closed term, so its registers are read by evaluation. -/
theorem resetValues : Obligations.ResetValues := by
  unfold Obligations.ResetValues
  decide

/-! ## Register writes -/

theorem exec_regWrite {off : BitVec 8} (hoff : off.toNat % 8 = 0) (v : Reg64) (s : State) :
    exec (.regWrite off v) s = .next (s.regWrite off v) := if_pos ((offsetOk_iff off).mpr hoff)

theorem State.regWrite_elsewhere {off : BitVec 8} (h0 : off.toNat ≠ 0x00) (h10 : off.toNat ≠ 0x10)
    (h18 : off.toNat ≠ 0x18) (v : Reg64) (s : State) : s.regWrite off v = s := by
  rw [State.regWrite, if_neg, if_neg, if_neg]
  all_goals
    rintro rfl
    contradiction

/-- Settles O41: `REG_WRITE` by offset; the three writable ones are the `regWrite` of their own rows. -/
theorem registerWritesElsewhereIgnored : Obligations.RegisterWritesElsewhereIgnored := by
  intro off v s hoff
  have hlit {n : Nat} (hn : off.toNat = n) : off = BitVec.ofNat 8 n := by
    rw [← hn, BitVec.ofNat_toNat, BitVec.setWidth_eq]
  rw [exec_regWrite hoff]
  refine ⟨fun h0 h10 h18 => by rw [State.regWrite_elsewhere h0 h10 h18], fun h => ?_, fun h => ?_, fun h => ?_⟩
  all_goals
    rw [hlit h]
    rfl

/-- A `CTRL` write, field by field (`10_state.md` R30). -/
theorem State.writeCtrl_eq (v : Reg64) (s : State) : s.writeCtrl v = { s with
    stopped := v.getLsbD 0 || (s.stopped && !v.getLsbD 1)
    frag := if v.getLsbD 1 then Frag.idle else s.frag
    seq := if v.getLsbD 1 then ⟨false, 0#16⟩ else s.seq
    ctr := if v.getLsbD 1 then Counters.zero else s.ctr
    plan := { s.plan with
      list := if v.getLsbD 2 then [] else s.plan.list
      cursor := if v.getLsbD 1 || v.getLsbD 2 then 0 else s.plan.cursor
      exhausted := !v.getLsbD 1 && !v.getLsbD 2 && s.plan.exhausted } } := by
  unfold State.writeCtrl
  cases v.getLsbD 0 <;> cases v.getLsbD 1 <;> cases v.getLsbD 2 <;>
    simp [State.sessionReset, State.replayClear, State.stop]

/-- Settles O42: the three rows are one `CTRL` write. -/
theorem controlActionsInOrder : Obligations.ControlActionsInOrder := fun v s =>
  have h := congrArg Host.Outcome.next (s.writeCtrl_eq v)
  ⟨h, h, h⟩

/-- The value's two low bits are `MODE` and `LEN` as `SC_CFG` shows them (R32). -/
theorem State.writeScCfg_scCfgWord (v : Reg64) (s : State) : (s.writeScCfg v).scCfgWord = v &&& 3 := by
  have hmode (b : Bool) : (if b then ScMode.replay else ScMode.fixed).bit = b := by cases b <;> rfl
  have hlen (b : Bool) : (if b then ScLen.four else ScLen.three).bit = b := by cases b <;> rfl
  apply BitVec.eq_of_toNat_eq
  have hlow : (v &&& 3).toNat = v.toNat % 4 := Nat.and_two_pow_sub_one_eq_mod v.toNat 2
  rw [State.scCfgWord_toNat, hlow]
  simp only [State.writeScCfg, hmode, hlen, BitVec.getLsbD, Nat.toNat_testBit]
  omega

/-- Settles O43: the row is `writeScCfg`, and its view is `State.writeScCfg_scCfgWord`. -/
theorem scCfgKeepsTwoBits : Obligations.ScCfgKeepsTwoBits :=
  fun v s => ⟨_, _, rfl, s.writeScCfg_scCfgWord v⟩

theorem extractLsb'_low3_eq_iff (v : Reg64) (k : BitVec 3) : v.extractLsb' 0 3 = k ↔ v.toNat % 8 = k.toNat := by
  rw [← BitVec.toNat_inj, BitVec.extractLsb'_toNat, Nat.shiftRight_zero]

/-- Settles O44: the two values that are pushed, and that nothing else is. -/
theorem replayPushAppends : Obligations.ReplayPushAppends := by
  intro v s
  have h3 : v.extractLsb' 0 3 = 3#3 ↔ v.toNat % 8 = 3 := extractLsb'_low3_eq_iff v 3#3
  have h4 : v.extractLsb' 0 3 = 4#3 ↔ v.toNat % 8 = 4 := extractLsb'_low3_eq_iff v 4#3
  have hrow : exec (.replayPushWrite v) s = .next (s.replayPush v) := rfl
  rw [hrow, State.replayPush]
  refine ⟨fun hv hroom => ?_, fun hv hroom => ?_, fun h => ?_⟩
  · rw [if_pos hroom, if_pos (h3.mpr hv)]
  · rw [if_pos hroom, if_neg (mt h3.mp (by omega)), if_pos (h4.mpr hv)]
  · obtain ⟨hne3, hne4⟩ | hfull := h
    · rw [if_neg (mt h3.mp hne3), if_neg (mt h4.mp hne4), ite_self]
    · rw [if_neg (Nat.not_lt.mpr hfull)]

end Sys2Proof.Machine
end

section
/-!
The RTP header (`spec/30_encoding.md` R80 to R84, `spec/40_rtp_header.md` R111 to R114) as numbers: a read of the
datagram by the place values of its bytes, a field of a byte by quotient and remainder, and `HeaderDecode` as the
formula of R84.
-/
namespace Sys2Proof.Machine

open Sys2Proof.Claims

/-! ## Reads and fields -/

section
variable {d : Bytes} {a : Nat}

theorem getElem_toNat (h : a < d.length) : d[a].toNat = byteAt d a := by
  rw [byteAt, List.getD_eq_getElem d 0#8 h]

theorem memRead1_toNat (h : a + 1 ≤ d.length) : (memRead1 d a h).toNat = byteAt d a := getElem_toNat h

theorem memRead2_toNat (h : a + 2 ≤ d.length) :
    (memRead2 d a h).toNat = 256 * byteAt d a + byteAt d (a + 1) := by
  rw [memRead2, ulen_toNat, getElem_toNat, getElem_toNat]

theorem memRead4_toNat (h : a + 4 ≤ d.length) : (memRead4 d a h).toNat =
    16777216 * byteAt d a + 65536 * byteAt d (a + 1) + 256 * byteAt d (a + 2) + byteAt d (a + 3) := by
  simp only [memRead4, toNat_append_eq_add, getElem_toNat]
  omega

theorem byteAt_lt (d : Bytes) (a : Nat) : byteAt d a < 256 := (d.getD a 0#8).isLt

end

theorem extractLsb'_toNat_eq_div_mod (b : Byte) (k n : Nat) : (b.extractLsb' k n).toNat = b.toNat / 2 ^ k % 2 ^ n := by
  rw [BitVec.extractLsb'_toNat, Nat.shiftRight_eq_div_pow]

theorem getLsbD_eq_decide (b : Byte) (k : Nat) : b.getLsbD k = decide (b.toNat / 2 ^ k % 2 = 1) :=
  Nat.testBit_eq_decide_div_mod_eq

/-- The fixed header, by byte and place value (R80, R111). -/
theorem unpackFixed_fields {d : Bytes} (h : 12 ≤ d.length) :
    (unpackFixed d h).v.toNat = byteAt d 0 / 64 ∧
    (unpackFixed d h).p = decide (byteAt d 0 / 32 % 2 = 1) ∧
    (unpackFixed d h).x = decide (byteAt d 0 / 16 % 2 = 1) ∧
    (unpackFixed d h).cc.toNat = byteAt d 0 % 16 ∧
    (unpackFixed d h).m = decide (byteAt d 1 / 128 = 1) ∧
    (unpackFixed d h).pt.toNat = byteAt d 1 % 128 ∧
    (unpackFixed d h).seq.toNat = 256 * byteAt d 2 + byteAt d 3 ∧
    (unpackFixed d h).ts.toNat =
      16777216 * byteAt d 4 + 65536 * byteAt d 5 + 256 * byteAt d 6 + byteAt d 7 ∧
    (unpackFixed d h).ssrc.toNat =
      16777216 * byteAt d 8 + 65536 * byteAt d 9 + 256 * byteAt d 10 + byteAt d 11 := by
  have h0 := byteAt_lt d 0
  have h1 := byteAt_lt d 1
  simp only [unpackFixed, extractLsb'_toNat_eq_div_mod, getLsbD_eq_decide, memRead1_toNat]
  refine ⟨by omega, rfl, rfl, by omega, ?_, by omega, memRead2_toNat _, memRead4_toNat _, memRead4_toNat _⟩
  rw [decide_eq_decide]
  omega

/-- Settles O13: a header that decodes keeps the fields as unpacked, and has its payload inside the datagram. -/
theorem headerFieldsUnpack : Obligations.HeaderFieldsUnpack := by
  intro c d w hd h
  obtain ⟨hexact, hpoff⟩ := headerDecode_exact hd h
  obtain ⟨-, hbounds⟩ := headerDecode_bounds h
  obtain ⟨h12, xlen, pad, hlen, -, -, rfl⟩ := headerDecode_ok h
  obtain ⟨hv, hp, hx, hcc, hm, hpt, hseq, hts, hssrc⟩ := unpackFixed_fields h12
  exact ⟨hv, hp, hx, hcc, hm, hpt, hseq, hts, hssrc, hexact, hbounds, hpoff⟩

/-! ## The formula -/

/-- The end of `HeaderDecode` as R84 and R114 state it. -/
theorem payloadBounds_map {d : Bytes} (hd : d.length ≤ 65536) (w : Working) {hlen : Nat} (h12 : 12 ≤ hlen)
    (h : hlen ≤ d.length) :
    (payloadBounds d w hlen h12 h).map (fun w => (w.poff.toNat, w.plen.toNat)) =
      if w.p.toNat = 1 ∧ (byteAt d (d.length - 1) = 0 ∨ byteAt d (d.length - 1) > d.length - hlen) then
        .error .invalidPadding
      else .ok (hlen, d.length - hlen - w.p.toNat * byteAt d (d.length - 1)) := by
  have hstored (w : Working) (pad : BitVec 8) {plen : Nat} (hplen : plen ≤ d.length - hlen) :
      ((w.withBounds hlen pad plen).poff.toNat, (w.withBounds hlen pad plen).plen.toNat) = (hlen, plen) := by
    obtain ⟨-, hpoff, hplen⟩ := w.withBounds_toNat (hlen := hlen) (plen := plen) pad (by unfold maxDgramBytes; omega)
    rw [hpoff, hplen]
  unfold payloadBounds
  cases hp : w.p with
  | false =>
    rw [if_neg Bool.false_ne_true, if_neg (by simp)]
    simp only [Except.map, hstored w 0 (Nat.le_refl _), Bool.toNat_false, Nat.zero_mul, Nat.sub_zero]
  | true =>
    simp only [if_true, memRead1_toNat, Bool.toNat_true, true_and, Nat.one_mul]
    split_ifs with hpad
    · rfl
    · simp only [Except.map, hstored w _ (Nat.sub_le _ _)]

theorem decide_toNat_mod_two (n : Nat) : (decide (n % 2 = 1)).toNat = n % 2 := by
  obtain h | h := Nat.mod_two_eq_zero_or_one n <;> simp [h]

/-- Settles O12: the checks in their order, with the header's fields and the extension length as numbers; the end is
`payloadBounds_map`. -/
theorem headerDecodeMatchesFormula : Obligations.HeaderDecodeMatchesFormula := by
  intro c d hd
  unfold headerDecode headerFormula
  dsimp only
  by_cases h12 : d.length < 12
  · rw [dif_pos h12, if_pos h12]; rfl
  rw [dif_neg h12, if_neg h12]
  obtain ⟨-, hp, hx, hcc, -⟩ := unpackFixed_fields (Nat.not_lt.mp h12)
  have hpn := (decide_toNat_mod_two _).symm.trans (congrArg Bool.toNat hp.symm)
  have hxn := (decide_toNat_mod_two _).symm.trans (congrArg Bool.toNat hx.symm)
  rw [← hcc, hpn, hxn]
  by_cases hext : (unpackFixed d (Nat.not_lt.mp h12)).x = true
  · rw [if_pos hext, hext, Bool.toNat_true]
    by_cases hb : d.length < 12 + 4 * (unpackFixed d (Nat.not_lt.mp h12)).cc.toNat + 4
    · rw [dif_pos hb, if_pos ⟨rfl, hb⟩]; rfl
    have hxlen := memRead2_toNat (d := d) (a := 12 + 4 * (unpackFixed d (Nat.not_lt.mp h12)).cc.toNat + 2) (by omega)
    rw [dif_neg hb, if_neg fun h => hb h.2, if_neg (by omega), ← hxlen, Nat.one_mul, ← Nat.add_assoc]
    split_ifs with hc hpad
    · unfold extOverrunStatus; cases c.extOverrun <;> rfl
    · rw [payloadBounds_map hd]; exact if_pos hpad
    · rw [payloadBounds_map hd]; exact if_neg hpad
  · rw [if_neg hext, eq_false_of_ne_true hext, Bool.toNat_false, if_neg (by omega)]
    by_cases hb : d.length < 12 + 4 * (unpackFixed d (Nat.not_lt.mp h12)).cc.toNat
    · rw [dif_pos hb, if_pos ⟨rfl, hb⟩]; rfl
    rw [dif_neg hb, if_neg fun h => hb h.2, Nat.zero_mul, Nat.add_zero, if_neg hb, payloadBounds_map hd]

end Sys2Proof.Machine
end

section
/-!
The whole machine. What a `DGRAM` step does to the state is said once, in `DgramEffect`, and what a step can do by
`step_cases`; the invariant, the growth of the streams and the frame of each flag are read off the two.
-/
namespace Sys2Proof.Machine

open Sys2Proof.Claims

/-! ## A datagram -/

/-- Everything a `DGRAM` step does to what outlives it: one result record of an allowed form is added, the records it
emitted and the events it raised are counted, the planner makes some `SC()` calls, and the host's side stays. -/
structure DgramEffect (s t : State) : Prop where
  cfg : t.cfg = s.cfg
  inputs : t.inputs = s.inputs
  stopped : t.stopped = s.stopped
  answers : t.answers = s.answers
  between : t.BetweenDatagrams
  plan : ∃ n, t.plan = (Plan.take n s.plan).2
  frag : s.frag.Ok s.cfg → t.frag.Ok t.cfg
  frag_of_stopped : s.stopped = true → t.frag = s.frag
  record : ∃ (r : ResultRecord) (recs : List Bytes), t.results = s.results ++ [r] ∧ r.Ok ∧
    t.output = s.output ++ recs ∧ recs.length = r.emitted ∧ (s.frag.Ok s.cfg → ∀ b ∈ recs, StartsWithStartCode b) ∧
    t.ctr.nalUnits = s.ctr.nalUnits + BitVec.ofNat 64 r.emitted ∧
    t.ctr.decodeErrors = s.ctr.decodeErrors + BitVec.ofNat 64 r.events.length

/-- A rejected datagram's record (`60_exceptions.md` R214). -/
theorem ResultRecord.ok_of_rejected {st : Status} (hst : st ≠ .accepted) :
    ({ ResultRecord.start with status := st } : ResultRecord).Ok :=
  ⟨fun _ => ⟨rfl, rfl, rfl, rfl⟩, fun h => absurd h hst, fun _ => rfl, nofun, List.mem_cons_self⟩

/-- An accepted datagram's record: the tracker's class and count, and the events of one stage. -/
theorem ResultRecord.ok_of_accepted {r : ResultRecord} (hstatus : r.status = .accepted) (hclass : r.seqClass ≠ .none)
    (hnot : r.seqClass ≠ .lost → r.lostN = 0) (hlost : r.seqClass = .lost → 1 ≤ r.lostN ∧ r.lostN ≤ 32766)
    (hevents : r.events ∈ allowedEvents) : r.Ok :=
  ⟨fun h => absurd hstatus h, fun _ => hclass, hnot, hlost, hevents⟩

/-- The tracker touches no counter of records or of errors. -/
theorem observe_acceptCounters {s u : State} (h : observe s.acceptCounters = .next u) :
    ∃ ctr cls n, u = s.acceptCounters.tracked ctr cls n ∧ ctr.nalUnits = s.ctr.nalUnits ∧
      ctr.decodeErrors = s.ctr.decodeErrors ∧ ctr.packets = s.acceptCounters.ctr.packets ∧
      ctr.payloadBytes = s.acceptCounters.ctr.payloadBytes ∧ ctr.markers = s.acceptCounters.ctr.markers ∧
      cls ≠ .none ∧ (cls ≠ .lost → n = 0) ∧ (cls = .lost → 1 ≤ n ∧ n ≤ 32766) := by
  obtain ⟨ctr, cls, n, hu, hctr, hcls⟩ := observe_cases s.acceptCounters
  cases h.symm.trans hu
  refine ⟨ctr, cls, n, rfl, ?_⟩
  obtain rfl | ⟨k, rfl⟩ | ⟨k, rfl⟩ | ⟨k, rfl⟩ := hctr
  all_goals exact ⟨rfl, rfl, rfl, rfl, rfl, hcls⟩

theorem dgram_effect {s t : State} {d : Bytes} (h : exec (.dgram d) s = .next t) : DgramEffect s t := by
  obtain ⟨t, rfl, ⟨st, hst, w, rfl⟩ | ⟨hrun, w, u, -, -, hu, heffect⟩⟩ := dgram_cases h
  · exact {
      cfg := rfl, inputs := rfl, stopped := rfl, answers := rfl, between := ⟨rfl, rfl, rfl⟩, plan := ⟨0, rfl⟩
      frag := id, frag_of_stopped := fun _ => rfl
      record := ⟨_, [], rfl, ResultRecord.ok_of_rejected hst, (List.append_nil _).symm, rfl, fun _ => nofun,
        (BitVec.add_zero _).symm, (BitVec.add_zero _).symm⟩ }
  · obtain ⟨ctr, cls, n, rfl, hnal, herrors, -, -, -, hcls⟩ := observe_acceptCounters hu
    obtain ⟨recs, hout, hcodes, hemitted, hcount⟩ := heffect.out
    obtain ⟨e, he, hevents, hcountErrors⟩ := heffect.ev
    obtain ⟨hstatus, hclass, hlostN⟩ := heffect.res
    have hemitted : t.res.emitted = recs.length := hemitted.trans (Nat.zero_add _)
    have hevents : t.res.events = e := hevents
    exact {
      cfg := heffect.cfg, inputs := heffect.inputs, stopped := heffect.stopped, answers := heffect.answers
      between := ⟨rfl, rfl, rfl⟩, plan := heffect.plan, frag := heffect.frag
      frag_of_stopped := fun hs => absurd hs (by rw [hrun]; exact Bool.false_ne_true)
      record := by
        refine ⟨t.res, recs, congrArg (· ++ [t.res]) heffect.results, ?_, hout, hemitted.symm, hcodes, ?_, ?_⟩
        · exact ResultRecord.ok_of_accepted hstatus (hclass ▸ hcls.1) (hclass ▸ hlostN ▸ hcls.2.1)
            (hclass ▸ hlostN ▸ hcls.2.2) (hevents ▸ he)
        · rw [hemitted]; exact hcount.trans (congrArg (· + _) hnal)
        · rw [hevents]; exact hcountErrors.trans (congrArg (· + _) herrors) }

/-- A datagram that can be presented completes (`46_host_commands.md` R187). -/
theorem dgram_completes (s : State) {d : Bytes} (hd : d.length ≤ maxDgramBytes) :
    ∃ t, exec (.dgram d) s = .next t := by
  obtain ⟨t, ht, -⟩ := runDatagram_cases (s.openDgram d) d rfl
  exact ⟨t.resultOut, by simp only [exec, execDgram, if_pos hd, ht, andThen_next]⟩

/-- Settles O16: a datagram of that length completes, with the effect of `DgramEffect`. -/
theorem everyDatagramCompletes : Obligations.EveryDatagramCompletes := by
  intro s d hd
  obtain ⟨t, ht⟩ := dgram_completes s hd
  have heffect := dgram_effect ht
  obtain ⟨r, recs, hresults, hok, hout, hemitted, -, hnal, herrors⟩ := heffect.record
  obtain ⟨n, hplan⟩ := heffect.plan
  obtain ⟨hmode, hlen, hlist⟩ := Plan.take_keeps n s.plan
  rw [← hplan] at hmode hlen hlist
  exact ⟨t, r, recs, ht, hresults, hout, hemitted, hnal, herrors, hok, heffect.between, heffect.cfg, heffect.inputs,
    heffect.stopped, heffect.answers, hmode, hlen, hlist⟩

/-- A datagram whose pipeline only sets a status adds the record of that status. -/
theorem exec_dgram_of_rejected {s : State} (hbetween : s.BetweenDatagrams) {d : Bytes} (hd : d.length ≤ 65536)
    {w : Working} {st : Status}
    (hrun : runDatagram d (s.openDgram d) = .next (State.setStatus st { s.openDgram d with w := w })) :
    exec (.dgram d) s = .next { s with results := s.results ++ [⟨st, .none, 0, [], 0⟩] } := by
  obtain ⟨hdgram, hw, hres⟩ := hbetween
  have hexec : exec (.dgram d) s = andThen (runDatagram d (s.openDgram d)) (fun t => .next t.resultOut) := if_pos hd
  rw [hexec, hrun, andThen_next]
  simp only [State.resultOut, State.setStatus, State.openDgram, ← hdgram, ← hw, ← hres]
  rw [hres]; rfl

/-- Settles O14: the three ways the pipeline stops short of an accepted packet. -/
theorem rejectedDatagramChangesNothing : Obligations.RejectedDatagramChangesNothing := by
  intro s d hbetween hd after
  refine ⟨fun hs => ?_, fun hs st hst => ?_, fun hs w hw hv => ?_⟩
  · exact exec_dgram_of_rejected hbetween hd (runDatagram_stopped (s.openDgram d) d hs)
  · exact exec_dgram_of_rejected hbetween hd (runDatagram_error (s.openDgram d) d hs hst)
  · have hfields := headerFieldsUnpack s.cfg d w hd hw
    refine exec_dgram_of_rejected hbetween hd (runDatagram_drop (s.openDgram d) d hs hw fun hv2 => hv ?_)
    rw [← hfields.1, hv2]; rfl

/-! ## The invariant -/

/-- Settles O46: every clause is about a constant of the reset state. -/
theorem resetSatisfiesInvariant : Obligations.ResetSatisfiesInvariant where
  cfg := by decide
  between := ⟨rfl, rfl, rfl⟩
  frag := Frag.idle_ok _
  plan := ⟨Nat.le_refl 0, Nat.zero_le _⟩
  results := List.forall_mem_nil _
  output := List.forall_mem_nil _

theorem State.Inv.dgram {s t : State} {d : Bytes} (hinv : s.Inv) (h : exec (.dgram d) s = .next t) : t.Inv := by
  have heffect := dgram_effect h
  obtain ⟨r, recs, hresults, hok, hout, -, hcodes, -⟩ := heffect.record
  obtain ⟨n, hplan⟩ := heffect.plan
  refine ⟨by rw [heffect.cfg]; exact hinv.cfg, heffect.between, heffect.frag hinv.frag, ?_, ?_, ?_⟩
  · rw [hplan, heffect.cfg]
    exact ⟨Plan.take_cursor n _ hinv.plan.1, by rw [(Plan.take_keeps n s.plan).2.2]; exact hinv.plan.2⟩
  · rw [hresults]; exact List.forall_mem_append.mpr ⟨hinv.results, List.forall_mem_singleton.mpr hok⟩
  · rw [hout]; exact List.forall_mem_append.mpr ⟨hinv.output, hcodes hinv.frag⟩

theorem State.Inv.writeCtrl {s : State} (hinv : s.Inv) (v : Reg64) : (s.writeCtrl v).Inv := by
  obtain ⟨hcursor, hcap⟩ := hinv.plan
  rw [State.writeCtrl_eq]
  refine ⟨hinv.cfg, hinv.between, ?_, ?_, hinv.results, hinv.output⟩
  · dsimp only
    split_ifs
    · exact Frag.idle_ok _
    · exact hinv.frag
  · dsimp only [Plan.Ok]
    cases v.getLsbD 1 <;> cases v.getLsbD 2 <;> simp [hcursor, hcap]

theorem State.Inv.regWrite {s : State} (hinv : s.Inv) (off : BitVec 8) (v : Reg64) : (s.regWrite off v).Inv := by
  obtain ⟨hcursor, hcap⟩ := hinv.plan
  obtain ⟨-, h⟩ | ⟨m, l, h⟩ | ⟨n, hroom, h⟩ | h := regWrite_cases off v s
  · rw [h]; exact hinv.writeCtrl v
  · rw [h]; exact { hinv with plan := ⟨hcursor, hcap⟩ }
  · rw [h]
    refine { hinv with plan := ⟨?_, ?_⟩ }
    · rw [List.length_append]; exact Nat.le_add_right_of_le hcursor
    · rw [List.length_append]; exact hroom
  · rw [h]; exact hinv

/-- The invariant does not speak of the port and the answers. -/
theorem State.Inv.host {s : State} (hinv : s.Inv) (inputs : List HostInput) (answers : List Reg64) :
    ({ s with inputs := inputs, answers := answers } : State).Inv := { hinv with }

/-- Settles O47: each kind of step keeps the invariant. -/
theorem everyStepKeepsInvariant : Obligations.EveryStepKeepsInvariant := by
  intro s t hinv h
  obtain ⟨-, rfl⟩ | ⟨rest, -, rfl⟩ | ⟨d, rest, -, -, hd⟩ | ⟨off, rest, -, rfl⟩ | ⟨off, v, rest, -, rfl⟩ := step_cases h
  · exact hinv
  · exact { resetSatisfiesInvariant with
      cfg := hinv.cfg, plan := ⟨Nat.le_refl 0, Nat.zero_le _⟩, frag := Frag.idle_ok _ }
  · exact (hinv.host rest s.answers).dgram hd
  · exact hinv.host rest _
  · exact (hinv.host rest s.answers).regWrite off v

/-! ## What a register write leaves alone -/

/-- A register write touches no parameter and no stream. -/
theorem regWrite_keeps (off : BitVec 8) (v : Reg64) (s : State) : (s.regWrite off v).cfg = s.cfg ∧
    (s.regWrite off v).inputs = s.inputs ∧ (s.regWrite off v).output = s.output ∧
    (s.regWrite off v).results = s.results ∧ (s.regWrite off v).answers = s.answers := by
  obtain ⟨-, h⟩ | ⟨m, l, h⟩ | ⟨n, -, h⟩ | h := regWrite_cases off v s
  · rw [h, State.writeCtrl_eq]; exact ⟨rfl, rfl, rfl, rfl, rfl⟩
  all_goals rw [h]; exact ⟨rfl, rfl, rfl, rfl, rfl⟩

/-- Settles O48: a datagram appends, a read answers, a write touches no stream. -/
theorem streamsOnlyGrow : Obligations.StreamsOnlyGrow := by
  intro s t h
  obtain ⟨-, rfl⟩ | ⟨rest, hreset, rfl⟩ | ⟨d, rest, -, -, hd⟩ | ⟨off, rest, -, rfl⟩ | ⟨off, v, rest, -, rfl⟩ :=
    step_cases h
  · exact ⟨rfl, .inr ⟨List.prefix_rfl, List.prefix_rfl, List.prefix_rfl⟩⟩
  · exact ⟨rfl, .inl ⟨rest, hreset⟩⟩
  · have heffect := dgram_effect hd
    obtain ⟨r, recs, hresults, -, hout, -⟩ := heffect.record
    refine ⟨heffect.cfg, .inr ⟨?_, ?_, ?_⟩⟩
    · rw [hout]; exact List.prefix_append _ _
    · rw [hresults]; exact List.prefix_append _ _
    · rw [heffect.answers]
  · exact ⟨rfl, .inr ⟨List.prefix_rfl, List.prefix_rfl, List.prefix_append _ _⟩⟩
  · obtain ⟨hcfg, -, hout, hresults, hanswers⟩ := regWrite_keeps off v { s with inputs := rest }
    exact ⟨hcfg, .inr ⟨by rw [hout], by rw [hresults], by rw [hanswers]⟩⟩

/-! ## Which inputs can change what -/

/-- Away from `CTRL` a register write changes the planner's settings and list only. -/
theorem regWrite_frame {off : BitVec 8} (hoff : off ≠ 0x00#8) (v : Reg64) (s : State) :
    (s.regWrite off v).stopped = s.stopped ∧ (s.regWrite off v).frag = s.frag ∧ (s.regWrite off v).ctr = s.ctr ∧
      (s.regWrite off v).plan.exhausted = s.plan.exhausted := by
  obtain ⟨h, -⟩ | ⟨m, l, h⟩ | ⟨n, -, h⟩ | h := regWrite_cases off v s
  · exact absurd h hoff
  all_goals rw [h]; exact ⟨rfl, rfl, rfl, rfl⟩

/-- What a step can do to the flags, the fragment and the counters: `RESET` clears `STOPPED`; a datagram keeps it,
never clears the planner's exhaustion and, in a stopped block, keeps the fragment; a `CTRL` write does its actions;
every other step keeps them all. -/
theorem step_frame {s t : State} (h : step s = .next t) :
    (IsReset s ∧ t.stopped = false) ∨
    (IsDgram s ∧ t.stopped = s.stopped ∧ (s.plan.exhausted = true → t.plan.exhausted = true) ∧
      (s.stopped = true → t.frag = s.frag)) ∨
    (∃ v rest, s.inputs = .txn (writeTxn 0x00#8 v) :: rest ∧ t = State.writeCtrl v { s with inputs := rest }) ∨
    (t.stopped = s.stopped ∧ t.frag = s.frag ∧ t.ctr = s.ctr ∧ t.plan.exhausted = s.plan.exhausted) := by
  obtain ⟨-, rfl⟩ | ⟨rest, hreset, rfl⟩ | ⟨d, rest, hdgram, -, hd⟩ | ⟨off, rest, -, rfl⟩ |
    ⟨off, v, rest, hwrite, rfl⟩ := step_cases h
  · exact .inr (.inr (.inr ⟨rfl, rfl, rfl, rfl⟩))
  · exact .inl ⟨⟨rest, hreset⟩, rfl⟩
  · have heffect := dgram_effect hd
    obtain ⟨n, hplan⟩ := heffect.plan
    exact .inr (.inl ⟨⟨d, rest, hdgram⟩, heffect.stopped, fun he => by rw [hplan]; exact Plan.take_exhausted n _ he,
      heffect.frag_of_stopped⟩)
  · exact .inr (.inr (.inr ⟨rfl, rfl, rfl, rfl⟩))
  · by_cases hoff : off = 0x00#8
    · subst hoff
      exact .inr (.inr (.inl ⟨v, rest, hwrite, rfl⟩))
    · exact .inr (.inr (.inr (regWrite_frame hoff v { s with inputs := rest })))

/-- Settles O49: a `CTRL` write clears the flag by its bit 1 and sets it by its bit 0. -/
theorem onlySessionResetEndsStop : Obligations.OnlySessionResetEndsStop := by
  intro s t h
  obtain ⟨hreset, ht⟩ | ⟨-, ht, -⟩ | ⟨v, rest, hwrite, rfl⟩ | ⟨ht, -⟩ := step_frame h
  · exact ⟨fun _ _ => .inl hreset, fun _ h1 => absurd (ht.symm.trans h1) Bool.false_ne_true⟩
  case inr.inr.inl =>
    rw [State.writeCtrl_eq]
    refine ⟨fun hs h0 => .inr ⟨v, rest, hwrite, ?_⟩, fun hs h1 => ⟨v, rest, hwrite, ?_⟩⟩
    · have h0 : v.getLsbD 0 = false ∧ v.getLsbD 1 = true := by simpa [hs] using h0
      exact h0.2
    · simpa [hs] using h1
  all_goals
    exact ⟨fun hs h0 => absurd (h0.symm.trans (ht.trans hs)) Bool.false_ne_true,
      fun hs h1 => absurd (hs.symm.trans (ht.symm.trans h1)) Bool.false_ne_true⟩

/-- Settles O50: a `CTRL` write clears the flag by its bits 1 and 2. -/
theorem exhaustedReplayStaysExhausted : Obligations.ExhaustedReplayStaysExhausted := by
  intro s t h hs ht
  obtain ⟨hreset, -⟩ | ⟨-, -, hkept, -⟩ | ⟨v, rest, hwrite, rfl⟩ | ⟨-, -, -, hkept⟩ := step_frame h
  · exact .inl hreset
  · exact absurd (ht.symm.trans (hkept hs)) Bool.false_ne_true
  · rw [State.writeCtrl_eq] at ht
    have hbits : v.getLsbD 1 = true ∨ v.getLsbD 2 = true := by
      simpa [hs, Decidable.or_iff_not_imp_left] using ht
    exact .inr (hbits.imp (fun hv => ⟨v, rest, hwrite, hv⟩) fun hv => ⟨v, rest, hwrite, hv⟩)
  · exact absurd (ht.symm.trans (hkept.trans hs)) Bool.false_ne_true

/-- Settles O51: a `CTRL` write clears the counters by its bit 1. -/
theorem onlyDatagramsAndResetsChangeCounters : Obligations.OnlyDatagramsAndResetsChangeCounters := by
  intro s t h hchanged
  obtain ⟨hreset, -⟩ | ⟨hdgram, -⟩ | ⟨v, rest, hwrite, rfl⟩ | ⟨-, -, hkept, -⟩ := step_frame h
  · exact .inl hreset
  · exact .inr (.inr hdgram)
  · rw [State.writeCtrl_eq] at hchanged
    exact .inr (.inl ⟨v, rest, hwrite, (ite_ne_right_iff.mp hchanged).1⟩)
  · exact absurd hkept hchanged

/-- Settles O52: a `CTRL` write clears the fragment by its bit 1; a stopped block's datagram keeps it. -/
theorem openFragmentSurvivesOtherSteps : Obligations.OpenFragmentSurvivesOtherSteps := by
  intro s t h hchanged
  obtain ⟨hreset, -⟩ | ⟨hdgram, -, -, hkept⟩ | ⟨v, rest, hwrite, rfl⟩ | ⟨-, hkept, -⟩ := step_frame h
  · exact .inl hreset
  · exact .inr (.inr ⟨hdgram, eq_false_of_ne_true fun hs => hchanged (hkept hs)⟩)
  · rw [State.writeCtrl_eq] at hchanged
    exact .inr (.inl ⟨v, rest, hwrite, (ite_ne_right_iff.mp hchanged).1⟩)
  · exact absurd hkept hchanged

end Sys2Proof.Machine
end

section
/-!
The stages of a datagram one by one: the version filter (`spec/40_rtp_header.md` R115), the accepted packet (R116), the
sequence rows (`spec/45_sequence.md`), the classifier's plain rows (`spec/41_nal_classifier.md` R131 to R133) and the
start-code formatter (`spec/44_start_code.md` R160).
-/
namespace Sys2Proof.Machine

open Sys2Proof.Claims

/-! ## The version filter -/

/-- The pipeline's version filter runs the row that `versionCases` selects among the instructions. -/
theorem runVersion_eq (s : State) : runVersion s =
    exec (versionCases s.w.v (.rtpDropV0 s.w.p s.w.x s.w.cc) (.rtpDropV1 s.w.p s.w.x s.w.cc)
      (.rtpAcceptV2 s.w.p s.w.x s.w.cc) (.rtpDropV3 s.w.p s.w.x s.w.cc)) s := by
  unfold runVersion versionCases
  split_ifs <;> rfl

/-- The header's version fields are those of byte `D[0]`, so the pipeline's row is the decoder's. -/
theorem runVersion_headerDecode {c : Config} {d : Bytes} {w : Working} (h : headerDecode c d = .ok w) (s : State) :
    runVersion { s with w := w } = exec (decodeVersion (d.headD 0#8)) { s with w := w } := by
  obtain ⟨h12, xlen, pad, hlen, -, -, rfl⟩ := headerDecode_ok h
  obtain ⟨b, rest, rfl⟩ := List.exists_cons_of_length_pos (Nat.zero_lt_of_lt h12)
  rw [runVersion_eq]; rfl

/-- Settles O17: the pipeline's stages are the decoders' rows. -/
theorem datagramRunsDecodedRows : Obligations.DatagramRunsDecodedRows := by
  refine ⟨fun s d w hd hs hw => ?_, fun s p x cc pl hpl => ?_⟩
  · have hrun : runDatagram d (s.openDgram d) = runVersion { s.openDgram d with w := w } := by
      rw [runDatagram, if_neg (by rw [State.openDgram_stopped, hs]; exact Bool.false_ne_true), State.openDgram_cfg, hw]
      rfl
    rw [← runVersion_headerDecode hw, ← hrun]
    exact if_pos hd
  · have hrow : exec (.rtpAcceptV2 p x cc) s = andThen (observe s.acceptCounters) (classify pl) := by
      simp only [exec, execRtpAcceptV2, hpl]
    rw [hrow, observe_eq, funext (classify_eq pl)]

/-- Settles O18: `AcceptCounters`, then the tracker, then a stage that keeps what is stated (`StageEffect`). -/
theorem acceptedPacketIsCounted : Obligations.AcceptedPacketIsCounted := by
  intro s p x cc
  refine ⟨fun hinside => ?_, fun houtside => ?_⟩
  · obtain ⟨u, t, hu, ht, heffect⟩ := accept_cases s p x cc hinside
    obtain ⟨ctr, cls, n, rfl, -, -, hpackets, hbytes, hmarkers, -⟩ := observe_acceptCounters hu
    obtain ⟨hpackets', hbytes', -, -, -, hmarkers'⟩ := heffect.ctr
    obtain ⟨recs, hout, -⟩ := heffect.out
    refine ⟨t, ht, ?_, ?_, ?_, heffect.seq, heffect.res.1, heffect.cfg, heffect.inputs, heffect.stopped,
      heffect.results, heffect.answers, heffect.dgram, ⟨recs, hout.symm⟩⟩
    · rw [hpackets', State.tracked, hpackets, State.acceptCounters_ctr, BitVec.toNat_add]; rfl
    · rw [hbytes', State.tracked, hbytes, State.acceptCounters_ctr, BitVec.toNat_add,
        BitVec.toNat_setWidth_of_le (by decide)]
    · rw [hmarkers', State.tracked, hmarkers, State.acceptCounters_ctr, BitVec.toNat_add]
      cases s.w.m <;> rfl
  · have hnone : s.payload? = none := if_neg (Nat.not_le.mpr houtside)
    simp only [exec, execRtpAcceptV2, hnone]

theorem version_toNat (b : Byte) : (b.extractLsb' 6 2).toNat = b.toNat / 64 := by
  have hb := b.isLt
  rw [extractLsb'_toNat_eq_div_mod]
  omega

/-- Settles O15: only version 2 has a row that is not a drop row. -/
theorem otherVersionsDropped : Obligations.OtherVersionsDropped := by
  intro s p x cc b after
  refine ⟨rfl, rfl, rfl, fun hv => ?_, fun hv => ?_⟩
  · have hne : b.extractLsb' 6 2 ≠ 2#2 := fun h => hv (by rw [← version_toNat, h]; rfl)
    unfold decodeVersion versionCases
    rw [if_neg hne]
    split_ifs <;> rfl
  · have heq : b.extractLsb' 6 2 = 2#2 := BitVec.eq_of_toNat_eq ((version_toNat b).trans hv)
    exact ⟨_, _, _, if_pos heq⟩

/-! ## The sequence rows -/

/-- Settles O10: each row is the definition's record; its counter is counted modulo 2^64. -/
theorem sequenceRowsComplete : Obligations.SequenceRowsComplete := by
  intro s delta after
  refine ⟨rfl, rfl, ⟨_, rfl, BitVec.toNat_add _ _⟩, fun _ _ => ⟨_, rfl, ?_⟩, fun _ => ⟨_, rfl, BitVec.toNat_add _ _⟩⟩
  rw [BitVec.toNat_add, BitVec.toNat_ofNat, Nat.add_mod_mod]

/-! ## The classifier's plain rows -/

theorem abandonIfActive_eq_claims (s : State) : s.abandonIfActive = { s with
    frag := abandonedFrag s
    ctr := { s.ctr with decodeErrors := s.ctr.decodeErrors + abandonCount s }
    res := { s.res with events := s.res.events ++ abandonEvents s } } := s.abandonIfActive_eq

theorem State.singleNal_eq (pl : Bytes) (s : State) : s.singleNal pl = { s with
    output := s.output ++ [s.nextStartCode ++ pl]
    plan := s.plan.next.2
    frag := abandonedFrag s
    ctr := { s.ctr with
      nalUnits := s.ctr.nalUnits + 1
      decodeErrors := s.ctr.decodeErrors + abandonCount s }
    res := { s.res with events := s.res.events ++ abandonEvents s, emitted := s.res.emitted + 1 } } := by
  rw [State.singleNal, abandonIfActive_eq_claims]; rfl

/-- Settles O23: the two rows that carry a single NAL unit. -/
theorem singleNalEmitsWholePayload : Obligations.SingleNalEmitsWholePayload := by
  intro i pl s hi
  cases i <;> cases hi
  all_goals exact congrArg Host.Outcome.next (s.singleNal_eq _)

/-- Settles O24: the four rows are one operation. -/
theorem unsupportedTypesEmitNothing : Obligations.UnsupportedTypesEmitNothing := by
  intro s f nri t body after
  have hrow : Host.Outcome.next s.unsupported = (Host.Outcome.next after : Result) := by
    rw [State.unsupported, abandonIfActive_eq_claims]; rfl
  exact ⟨hrow, hrow, hrow, hrow⟩

/-- Settles O25: each row is one `raise`. -/
theorem emptyAndShortPayloadsKeepFragment : Obligations.EmptyAndShortPayloadsKeepFragment :=
  fun _ _ _ => ⟨rfl, rfl, rfl⟩

/-! ## The start-code formatter -/

/-- The plan after `n` calls in Replay mode, not exhausted before. -/
def Plan.replayed (n : Nat) (p : Plan) : Plan :=
  { p with cursor := min (p.cursor + n) p.list.length, exhausted := decide (p.list.length < p.cursor + n) }

theorem Plan.replayed_zero {p : Plan} (hexhausted : p.exhausted = false) (hcursor : p.cursor ≤ p.list.length) :
    p.replayed 0 = p := by
  rw [Plan.replayed, Nat.add_zero, Nat.min_eq_left hcursor, decide_eq_false (Nat.not_lt.mpr hcursor), ← hexhausted]

/-- A call that takes a recorded length. -/
theorem Plan.replayed_advance (n : Nat) (p : Plan) :
    ({ p with cursor := p.cursor + 1 } : Plan).replayed n = p.replayed (n + 1) := by
  simp only [Plan.replayed, Nat.add_assoc, Nat.add_comm 1 n]

/-- A call that finds none left. -/
theorem Plan.replayed_exhaust (n : Nat) {p : Plan} (hend : p.cursor = p.list.length) :
    p.replayed (n + 1) = { p with exhausted := true } := by
  rw [Plan.replayed, ← hend, Nat.min_eq_right (Nat.le_add_right _ _), decide_eq_true (by omega)]

theorem Plan.take_of_fixed (n : Nat) {p : Plan} (h : p.mode = .fixed ∨ p.exhausted = true) :
    Plan.take n p = (List.replicate n (startCode p.len), p) := by
  induction n with
  | zero => rfl
  | succ n ih => rw [Plan.take, p.next_fixed h, ih, List.replicate_succ]

/-- By induction on the calls: the first one takes the length at the cursor, or finds none left and every later one is
the fallback. -/
theorem Plan.take_of_replay (n : Nat) {p : Plan} (hmode : p.mode = .replay) (hexhausted : p.exhausted = false)
    (hcursor : p.cursor ≤ p.list.length) :
    Plan.take n p = (((p.list.drop p.cursor).take n).map startCode ++
      List.replicate (n - (p.list.length - p.cursor)) (startCode p.len), p.replayed n) := by
  induction n generalizing p with
  | zero => rw [Plan.replayed_zero hexhausted hcursor, Nat.zero_sub]; rfl
  | succ n ih =>
    obtain hlt | hend := Nat.lt_or_eq_of_le hcursor
    · have hleft : n + 1 - (p.list.length - p.cursor) = n - (p.list.length - (p.cursor + 1)) := by omega
      rw [Plan.take, p.next_replay hmode hexhausted (List.getElem?_eq_getElem hlt),
        ih (p := { p with cursor := p.cursor + 1 }) hmode hexhausted hlt, Plan.replayed_advance,
        List.drop_eq_getElem_cons hlt, List.take_succ_cons, List.map_cons, List.cons_append, hleft]
    · rw [Plan.take, p.next_last hmode hexhausted hend.ge, Plan.take_of_fixed n (.inr rfl),
        Plan.replayed_exhaust n hend, hend, List.drop_length, Nat.sub_self]
      rfl

/-- Settles O36: the two closed forms. -/
theorem formatterReplaysThenFallsBack : Obligations.FormatterReplaysThenFallsBack := by
  refine fun n p => ⟨Plan.take_of_fixed n, fun hmode hexhausted hcursor => ?_⟩
  rw [Plan.take_of_replay n hmode hexhausted hcursor]
  exact ⟨rfl, rfl⟩

end Sys2Proof.Machine
end

section
/-!
The STAP-A unpacker (`spec/43_stap_a.md`). Every byte string is whole units and a tail (`exists_stapUnits`); the loop of
R150 takes the units one turn each (`State.stapLoop_stapUnit`) and ends on the tail.
-/
namespace Sys2Proof.Machine

open Sys2Proof.Claims

/-! ## Units and tail -/

/-- What is left where no whole unit begins: nothing, one byte, or a length field that overruns (R151). -/
def IsStapTail (tail : Bytes) : Prop :=
  tail = [] ∨ tail.length = 1 ∨ ∃ hi lo rest, tail = hi :: lo :: rest ∧ rest.length < 256 * hi.toNat + lo.toNat

theorem be16_append_bytes (hi lo : Byte) : be16 (hi ++ lo) = [hi, lo] := by
  have hhi : (hi ++ lo : BitVec 16).extractLsb' 8 8 = hi := extract_append_high hi lo
  have hlo : (hi ++ lo : BitVec 16).extractLsb' 0 8 = lo := extract_append_low hi lo
  rw [be16, hhi, hlo]

/-- A length field that does not overrun begins a unit. -/
theorem stapUnit_take {hi lo : Byte} {rest : Bytes} (h : (hi ++ lo : BitVec 16).toNat ≤ rest.length) :
    stapUnit (rest.take (hi ++ lo : BitVec 16).toNat) = hi :: lo :: rest.take (hi ++ lo : BitVec 16).toNat := by
  rw [stapUnit, List.length_take_of_le h, BitVec.ofNat_toNat, BitVec.setWidth_eq, be16_append_bytes]
  rfl

/-- Every byte string is whole units and a tail. -/
theorem exists_stapUnits : ∀ b : Bytes, ∃ (us : List Bytes) (tail : Bytes),
    b = us.flatMap stapUnit ++ tail ∧ (∀ u ∈ us, u.length ≤ 65535) ∧ IsStapTail tail
  | [] => ⟨[], [], rfl, List.forall_mem_nil _, .inl rfl⟩
  | [x] => ⟨[], [x], rfl, List.forall_mem_nil _, .inr (.inl rfl)⟩
  | hi :: lo :: rest => by
    by_cases h : (hi ++ lo : BitVec 16).toNat ≤ rest.length
    · obtain ⟨us, tail, hb, hus, htail⟩ := exists_stapUnits (rest.drop (hi ++ lo : BitVec 16).toNat)
      refine ⟨rest.take (hi ++ lo : BitVec 16).toNat :: us, tail, ?_, List.forall_mem_cons.mpr ⟨?_, hus⟩, htail⟩
      · rw [List.flatMap_cons, stapUnit_take h, List.append_assoc, ← hb, List.cons_append, List.cons_append,
          List.take_append_drop]
      · rw [List.length_take_of_le h]
        exact Nat.le_of_lt_succ (hi ++ lo : BitVec 16).isLt
    · exact ⟨[], hi :: lo :: rest, rfl, List.forall_mem_nil _,
        .inr (.inr ⟨hi, lo, rest, rfl, by rw [← ulen_toNat]; omega⟩)⟩
termination_by b => b.length
decreasing_by simp only [List.length_drop, List.length_cons]; omega

/-! ## The loop -/

/-- The state the loop leaves after the units `us` and the tail, but for the unit length `ulen` it read last. -/
def State.unpacked (us : List Bytes) (tail : Bytes) (ulen : BitVec 16) (s : State) : State :=
  { s with
    output := s.output ++ List.zipWith (· ++ ·) (Plan.take us.length s.plan).1 us
    plan := (Plan.take us.length s.plan).2
    ctr := { s.ctr with
      nalUnits := s.ctr.nalUnits + BitVec.ofNat 64 us.length
      stapaUnits := s.ctr.stapaUnits + BitVec.ofNat 64 us.length
      decodeErrors := s.ctr.decodeErrors + if tail = [] then 0 else 1 }
    res := { s.res with
      events := s.res.events ++ if tail = [] then [] else [.stapLengthOverflow]
      emitted := s.res.emitted + us.length }
    w := { s.w with off := s.w.off + BitVec.ofNat 17 (us.flatMap stapUnit).length, ulen := ulen } }

/-- The end of the loop. -/
theorem State.stapLoop_tail {tail : Bytes} (htail : IsStapTail tail) {fuel : Nat} (hfuel : tail.length ≤ fuel)
    (s : State) : ∃ ulen, s.stapLoop fuel tail = s.unpacked [] tail ulen := by
  obtain rfl | hone | ⟨hi, lo, rest, rfl, hover⟩ := htail
  · refine ⟨s.w.ulen, ?_⟩
    have hstop : s.stapLoop fuel [] = s := by cases fuel <;> rfl
    rw [hstop]
    simp [State.unpacked, Plan.take]
  · obtain ⟨x, rfl⟩ := List.length_eq_one_iff.mp hone
    obtain ⟨n, rfl⟩ : ∃ n, fuel = n + 1 := ⟨fuel - 1, by rw [List.length_singleton] at hfuel; omega⟩
    exact ⟨s.w.ulen, by simp [State.unpacked, Plan.take, State.stapLoop, State.raise]⟩
  · obtain ⟨n, rfl⟩ : ∃ n, fuel = n + 1 := ⟨fuel - 1, by rw [List.length_cons] at hfuel; omega⟩
    refine ⟨hi ++ lo, ?_⟩
    rw [State.stapLoop, if_pos (by rw [ulen_toNat]; exact hover)]
    simp [State.unpacked, Plan.take, State.setUlen, State.raise]

theorem add_one_add_ofNat (c : Reg64) (n : Nat) : c + 1 + BitVec.ofNat 64 n = c + BitVec.ofNat 64 (n + 1) := by
  rw [BitVec.add_assoc, Nat.add_comm, BitVec.ofNat_add]; rfl

/-- `OFF` after one unit and then the others. -/
theorem off_stapUnit_append (off : BitVec 17) {u : Bytes} (hu : u.length ≤ 65535) (rest : Bytes) :
    off + 2 + (BitVec.ofNat 16 u.length).setWidth 17 + BitVec.ofNat 17 rest.length =
      off + BitVec.ofNat 17 (stapUnit u ++ rest).length := by
  have hlen : (stapUnit u ++ rest).length = 2 + u.length + rest.length := by
    simp only [stapUnit, be16, List.length_append, List.length_cons, List.length_nil]
  have hu : (BitVec.ofNat 16 u.length).setWidth 17 = BitVec.ofNat 17 u.length :=
    BitVec.setWidth_ofNat_of_le_of_lt (by decide) (by omega)
  rw [hlen, hu, BitVec.ofNat_add, BitVec.ofNat_add, BitVec.add_assoc, BitVec.add_assoc, BitVec.add_assoc]
  rfl

/-- One turn of the loop, then the rest. -/
theorem State.unpacked_cons {u : Bytes} (hu : u.length ≤ 65535) (us : List Bytes) (tail : Bytes) (ulen : BitVec 16)
    (s : State) :
    (((s.setUlen (BitVec.ofNat 16 u.length)).emitNal u).countStapa.setOff
      (s.w.off + 2 + (BitVec.ofNat 16 u.length).setWidth 17)).unpacked us tail ulen =
      s.unpacked (u :: us) tail ulen := by
  simp only [State.unpacked, State.setOff, State.countStapa, State.emitNal, State.countNal, State.emit,
    State.advancePlan, State.setUlen, State.nextStartCode, Plan.take, List.length_cons, List.zipWith_cons_cons,
    List.flatMap_cons, List.append_assoc, List.singleton_append, add_one_add_ofNat, off_stapUnit_append _ hu,
    Nat.add_assoc, Nat.add_comm 1 us.length]

theorem State.stapLoop_units (us : List Bytes) (hus : ∀ u ∈ us, u.length ≤ 65535) {tail : Bytes}
    (htail : IsStapTail tail) {fuel : Nat} (hfuel : us.length + tail.length ≤ fuel) (s : State) :
    ∃ ulen, s.stapLoop fuel (us.flatMap stapUnit ++ tail) = s.unpacked us tail ulen := by
  induction us generalizing fuel s with
  | nil => exact State.stapLoop_tail htail (Nat.le_of_add_left_le hfuel) s
  | cons u us ih =>
    obtain ⟨hu, hus⟩ := List.forall_mem_cons.mp hus
    obtain ⟨n, rfl⟩ : ∃ n, fuel = n + 1 := ⟨fuel - 1, by rw [List.length_cons] at hfuel; omega⟩
    rw [List.flatMap_cons, List.append_assoc, State.stapLoop_stapUnit n hu]
    obtain ⟨ulen, hrest⟩ := ih hus (fuel := n) (by rw [List.length_cons] at hfuel; omega) _
    exact ⟨ulen, by rw [hrest, State.unpacked_cons hu]⟩

/-- Settles O27: abandonment, then the loop over the units and the tail. -/
theorem stapAEmitsEveryWholeUnit : Obligations.StapAEmitsEveryWholeUnit := by
  intro s f nri b
  obtain ⟨us, tail, rfl, hus, htail⟩ := exists_stapUnits b
  have hfuel : us.length + tail.length ≤ (us.flatMap stapUnit ++ tail).length := by
    rw [List.length_append]
    exact Nat.add_le_add_right (length_le_flatMap_stapUnit us) _
  obtain ⟨ulen, hloop⟩ := State.stapLoop_units us hus htail hfuel (s.abandonIfActive.setOff 1)
  refine ⟨us, tail, _, congrArg Host.Outcome.next hloop, rfl, hus, htail, ?_⟩
  rw [abandonIfActive_eq_claims, BitVec.ofNat_add]
  rfl

end Sys2Proof.Machine
end

section
/-!
FU-A reassembly (`spec/42_fu_a.md`): the rows one by one, the row an FU header selects (R145), and a unit cut into any
number of fragments (`95_test_vectors.md` W1).
-/
namespace Sys2Proof.Machine

open Sys2Proof.Claims

/-! ## Start fragments -/

section
variable {s : State} {f : Bool} {nri : BitVec 2} {r : Bool} {ot : BitVec 5} {frag : Bytes}

/-- `FuStart` where the buffer holds the seed (R141). -/
theorem State.fuStart_opens (start fin : Bool)
    (hfit : fragFits s.cfg (s.nextStartCode ++ nalHeader f nri ot :: frag).length = true) :
    (s.loadFu (nalHeader f nri 28#5) (fuHeader start fin r ot)).fuStart frag = { s with
      frag := ⟨true, ot, nalHeader f nri ot, s.nextStartCode ++ nalHeader f nri ot :: frag⟩
      plan := s.plan.next.2
      ctr := { s.ctr with decodeErrors := s.ctr.decodeErrors + abandonCount s }
      res := { s.res with events := s.res.events ++ abandonEvents s }
      w := fuOperands f nri start fin r ot s.w } := by
  rw [State.loadFu_eq, State.fuStart_eq]
  exact if_pos hfit

/-- `FuStart` where it does not (R144). -/
theorem State.fuStart_overflows (start fin : Bool)
    (hfit : fragFits s.cfg (s.nextStartCode ++ nalHeader f nri ot :: frag).length = false) :
    (s.loadFu (nalHeader f nri 28#5) (fuHeader start fin r ot)).fuStart frag = { s with
      frag := abandonedFrag s
      plan := s.plan.next.2
      ctr := { s.ctr with decodeErrors := s.ctr.decodeErrors + abandonCount s + 1 }
      res := { s.res with events := s.res.events ++ abandonEvents s ++ [.fragmentOverflow] }
      w := fuOperands f nri start fin r ot s.w } := by
  rw [State.loadFu_eq, State.fuStart_eq]
  exact if_neg (ne_true_of_eq_false hfit)

end

/-- Settles O29: the row is `FuStart` on its own operands. -/
theorem fuStartOpensBuffer : Obligations.FuStartOpensBuffer := by
  intro s f nri r ot frag hdr seed hfit
  exact congrArg Host.Outcome.next (State.fuStart_opens true false hfit)

/-- Settles O30: the buffer is open after `FuStart`, so `FuEnd` emits it. -/
theorem fuStartEndEmitsAtOnce : Obligations.FuStartEndEmitsAtOnce := by
  intro s f nri r ot frag seed hfit
  exact congrArg (fun u => Host.Outcome.next u.fuEndIfActive) (State.fuStart_opens true true hfit)

theorem abandonedFrag_active (s : State) : (abandonedFrag s).active = false := by
  unfold abandonedFrag
  cases h : s.frag.active
  · exact h
  · rfl

/-- Settles O31: no buffer is open after the overflow, so the end bit does nothing. -/
theorem oversizedStartStaysIdle : Obligations.OversizedStartStaysIdle := by
  intro s f nri r ot frag after hfit
  have hidle : (after (fuOperands f nri true true r ot s.w)).fuEndIfActive =
      after (fuOperands f nri true true r ot s.w) := State.fuEndIfActive_of_idle _ (abandonedFrag_active s)
  refine ⟨abandonedFrag_active s, congrArg Host.Outcome.next (State.fuStart_overflows true false hfit), ?_⟩
  rw [← hidle]
  exact congrArg (fun u => Host.Outcome.next u.fuEndIfActive) (State.fuStart_overflows true true hfit)

/-! ## Continuations -/

/-- `FuCont` with no fragment open (R142). -/
theorem State.fuCont_of_idle {s : State} {f : Bool} {nri : BitVec 2} {r : Bool} {ot : BitVec 5} {frag : Bytes}
    (start fin : Bool) (hidle : s.frag.active = false) :
    (s.loadFu (nalHeader f nri 28#5) (fuHeader start fin r ot)).fuCont frag =
      (false, ({ s with w := fuOperands f nri start fin r ot s.w } : State).raise .fuContinuationWithoutStart) := by
  rw [State.fuCont, if_neg (show ¬ (s.loadFu _ _).frag.active = true by rw [State.loadFu_frag, hidle]; nofun),
    State.loadFu_eq]
  rfl

/-- `FU_A_END` ends the buffer if `FuCont` took the fragment (R140). -/
theorem exec_fuAEnd {s u : State} {f : Bool} {nri : BitVec 2} {r : Bool} {ot : BitVec 5} {frag : Bytes}
    {taken : Bool} (h : (s.loadFu (nalHeader f nri 28#5) (fuHeader false true r ot)).fuCont frag = (taken, u)) :
    exec (.fuAEnd f nri r ot frag) s = .next (if taken then u.fuEndIfActive else u) := by
  simp only [exec, execFuAEnd, h]

theorem exec_fuAMiddle {s u : State} {f : Bool} {nri : BitVec 2} {r : Bool} {ot : BitVec 5} {frag : Bytes}
    {taken : Bool} (h : (s.loadFu (nalHeader f nri 28#5) (fuHeader false false r ot)).fuCont frag = (taken, u)) :
    exec (.fuAMiddle f nri r ot frag) s = .next u := by
  simp only [exec, execFuAMiddle, h]

/-- Settles O32: the three outcomes of `FuCont`. -/
theorem fuContinuationAppendsAndEnds : Obligations.FuContinuationAppendsAndEnds := by
  intro s f nri r ot frag acc wm we failed
  have hlen : acc.length = s.frag.acc.length + frag.length := List.length_append
  rw [hlen]
  refine ⟨fun hidle => ⟨?_, ?_⟩, fun hopen hfit => ⟨?_, ?_⟩, fun hopen hfit => ⟨?_, ?_⟩⟩
  · exact exec_fuAMiddle (State.fuCont_of_idle false false hidle)
  · exact exec_fuAEnd (State.fuCont_of_idle false true hidle)
  · exact exec_fuAMiddle (State.fuCont_of_overflow false false hopen (ne_true_of_eq_false hfit))
  · exact exec_fuAEnd (State.fuCont_of_overflow false true hopen (ne_true_of_eq_false hfit))
  · exact exec_fuAMiddle (State.fuCont_of_fits false false hopen hfit)
  · rw [exec_fuAEnd (State.fuCont_of_fits false true hopen hfit), if_pos rfl, State.fuEndIfActive, if_pos hopen]
    rfl

/-! ## The FU header -/

theorem fuHeader_toNat (start fin r : Bool) (ot : BitVec 5) :
    (fuHeader start fin r ot).toNat = 128 * start.toNat + 64 * fin.toNat + 32 * r.toNat + ot.toNat := by
  simp only [fuHeader, toNat_append_eq_add, BitVec.toNat_ofBool]
  omega

/-- The row of an FU header, by its start and end bits (R145). -/
def fuRow (f : Bool) (nri : BitVec 2) (r : Bool) (ot : BitVec 5) (frag : Bytes) : Bool → Bool → Instr
  | false, false => .fuAMiddle f nri r ot frag
  | false, true => .fuAEnd f nri r ot frag
  | true, false => .fuAStart f nri r ot frag
  | true, true => .fuAStartEnd f nri r ot frag

theorem fuRow_isFuRow (f : Bool) (nri : BitVec 2) (r : Bool) (ot : BitVec 5) (frag : Bytes) (start fin : Bool) :
    isFuRow (fuRow f nri r ot frag start fin) = true := by cases start <;> cases fin <;> rfl

theorem exec_fuA_cons (s : State) (f : Bool) (nri : BitVec 2) (start fin r : Bool) (ot : BitVec 5) (frag : Bytes) :
    exec (.fuA f nri (fuHeader start fin r ot :: frag)) s = exec (fuRow f nri r ot frag start fin) s := by
  simp only [exec, execFuA, fuCases, fuHeader_s, fuHeader_e, fuHeader_r, fuHeader_ot]
  cases start <;> cases fin <;> rfl

/-- Settles O33: an FU header is put together from its fields, and its two high bits are its start and end bits. -/
theorem fuADispatchesOnStartAndEnd : Obligations.FuADispatchesOnStartAndEnd := by
  intro s f nri fuh frag n
  obtain ⟨start, fin, r, ot, rfl⟩ : ∃ start fin r ot, fuh = fuHeader start fin r ot :=
    ⟨_, _, _, _, (fuHeader_fields fuh).symm⟩
  have hn : n = 128 * start.toNat + 64 * fin.toNat + 32 * r.toNat + ot.toNat := fuHeader_toNat start fin r ot
  have hot := ot.isLt
  have hr := r.toNat_lt
  obtain ⟨t, ht, -⟩ := fu_row s _ (fuRow_isFuRow f nri r ot frag start fin)
  refine ⟨_, r, ot, t, (exec_fuA_cons s f nri start fin r ot frag).trans ht, ht, by omega, ?_⟩
  cases start <;> cases fin <;> simp only [Bool.toNat_false, Bool.toNat_true] at hn
  · exact ⟨fun _ => rfl, fun _ => by omega, fun _ => by omega, fun _ => by omega⟩
  · exact ⟨fun _ => by omega, fun _ => rfl, fun _ => by omega, fun _ => by omega⟩
  · exact ⟨fun _ => by omega, fun _ => by omega, fun _ => rfl, fun _ => by omega⟩
  · exact ⟨fun _ => by omega, fun _ => by omega, fun _ => by omega, fun _ => rfl⟩

/-! ## A unit in fragments -/

theorem fragFits_mono {c : Config} {m n : Nat} (h : m ≤ n) (hn : fragFits c n = true) : fragFits c m = true := by
  unfold fragFits at *
  split at hn
  · rfl
  · exact decide_eq_true (h.trans (of_decide_eq_true hn))

/-- From `s`, with a fragment open, to `t` the open buffer and the bytes `b` after it went out as one record, and
nothing was counted but the unit. -/
structure Completes (b : Bytes) (s t : State) : Prop where
  output : t.output = s.output ++ [s.frag.acc ++ b]
  frag : t.frag = Frag.idle
  plan : t.plan = s.plan
  fuaComplete : t.ctr.fuaComplete = s.ctr.fuaComplete + 1
  nalUnits : t.ctr.nalUnits = s.ctr.nalUnits + 1
  decodeErrors : t.ctr.decodeErrors = s.ctr.decodeErrors

/-- The packets of a unit after its first, where the buffer holds them all. -/
theorem runAll_continuationRows (middles : List FuPiece) (last : FuPiece) {s : State} (hopen : s.frag.active = true)
    (hfit : fragFits s.cfg (s.frag.acc ++ (middles.flatMap FuPiece.frag ++ last.frag)).length = true) :
    ∃ t, runAll (continuationRows middles last) s = .next t ∧
      Completes (middles.flatMap FuPiece.frag ++ last.frag) s t := by
  induction middles generalizing s with
  | nil =>
    obtain ⟨-, -, hfits⟩ := fuContinuationAppendsAndEnds s last.f last.nri last.r last.ot last.frag
    exact ⟨_, runAll_cons_next (hfits hopen hfit).2 [], rfl, rfl, rfl, rfl, rfl, rfl⟩
  | cons p middles ih =>
    obtain ⟨-, -, hfits⟩ := fuContinuationAppendsAndEnds s p.f p.nri p.r p.ot p.frag
    rw [List.flatMap_cons, List.append_assoc, ← List.append_assoc s.frag.acc] at hfit
    have hmiddle := (hfits hopen (fragFits_mono (List.prefix_append _ _).length_le hfit)).1
    obtain ⟨t, ht, hdone⟩ := ih (s := { s with
      frag := { s.frag with acc := s.frag.acc ++ p.frag }
      w := fuOperands p.f p.nri false false p.r p.ot s.w }) hopen hfit
    refine ⟨t, (runAll_cons_next hmiddle _).trans ht, { hdone with output := ?_ }⟩
    rw [hdone.output, List.flatMap_cons, List.append_assoc, List.append_assoc]

/-- Settles O34: the start fragment opens the buffer, and the others complete it. -/
theorem fragmentedUnitReassembled : Obligations.FragmentedUnitReassembled := by
  intro s first last middles record hfit
  have hrecord : record = s.nextStartCode ++ nalHeader first.f first.nri first.ot :: first.frag ++
      (middles.flatMap FuPiece.frag ++ last.frag) := by simp [record, fuUnit]
  rw [hrecord] at hfit ⊢
  have hseed := fragFits_mono (List.prefix_append _ _).length_le hfit
  obtain ⟨u, hstart, hopen, hcfg, hacc, hout, hplan, hctr⟩ : ∃ u,
      exec (.fuAStart first.f first.nri first.r first.ot first.frag) s = .next u ∧ u.frag.active = true ∧
      u.cfg = s.cfg ∧ u.frag.acc = s.nextStartCode ++ nalHeader first.f first.nri first.ot :: first.frag ∧
      u.output = s.output ∧ u.plan = s.plan.next.2 ∧
      u.ctr = { s.ctr with decodeErrors := s.ctr.decodeErrors + abandonCount s } :=
    ⟨_, fuStartOpensBuffer s first.f first.nri first.r first.ot first.frag hseed, rfl, rfl, rfl, rfl, rfl, rfl⟩
  rw [← hcfg, ← hacc] at hfit
  obtain ⟨t, ht, hdone⟩ := runAll_continuationRows middles last hopen hfit
  refine ⟨t, (runAll_cons_next hstart _).trans ht, ?_, hdone.frag, hdone.plan.trans hplan, ?_, ?_, ?_⟩
  · rw [hdone.output, hout, hacc]
  · rw [hdone.fuaComplete, hctr]
  · rw [hdone.nalUnits, hctr]
  · rw [hdone.decodeErrors, hctr]

end Sys2Proof.Machine
end

section
/-!
What steers nothing: the fields of the RTP header that no rule reads (`spec/40_rtp_header.md` R117, decision D38) and
the sequence number and what the tracker keeps (`spec/45_sequence.md` R177, decision D39).

`State.blinded` erases from a state what the classifier and FU-A neither read nor write. Their rows commute with it
(`payload_row_blinded`) and the tracker's writes are erased by it, so two blocks with one blinded state still have one
after a datagram; `State.view` is the part of it that outlives the datagram.
-/
namespace Sys2Proof.Machine

open Sys2Proof.Claims

/-! ## What the classifier does not see -/

/-- The working registers but for those that only `HeaderDecode` and the tracker use. -/
def Working.blinded (w : Working) : Working :=
  { w with p := false, x := false, cc := 0, pt := 0, seq := 0, ts := 0, ssrc := 0, hlen := 0, xlen := 0, pad := 0 }

/-- A state but for the host's side, the datagram, those working registers, and what the tracker keeps and reports. -/
def State.blinded (s : State) : State :=
  { s with
    inputs := []
    seq := ⟨false, 0#16⟩
    ctr := { s.ctr with lost := 0, outOfOrder := 0, duplicate := 0 }
    results := []
    answers := []
    dgram := []
    w := s.w.blinded
    res := { s.res with seqClass := .none, lostN := 0 } }

/-- The part of a blinded state that outlives a datagram. -/
def State.view (s : State) : State := (s.openDgram []).blinded

/-- What the tracker keeps and reports. -/
def State.tracker (s : State) : SeqState × Reg64 × Reg64 × Reg64 × SeqClass × Nat :=
  (s.seq, s.ctr.lost, s.ctr.outOfOrder, s.ctr.duplicate, s.res.seqClass, s.res.lostN)

theorem State.blinded_abandonIfActive (s : State) : s.blinded.abandonIfActive = s.abandonIfActive.blinded := by
  rw [State.abandonIfActive_eq, State.abandonIfActive_eq]; rfl

theorem State.blinded_stapLoop (fuel : Nat) (rest : Bytes) (s : State) :
    s.blinded.stapLoop fuel rest = (s.stapLoop fuel rest).blinded := by
  induction fuel generalizing rest s with
  | zero => rfl
  | succ fuel ih =>
    match rest with
    | [] => rfl
    | [_] => rfl
    | hi :: lo :: tail =>
      rw [State.stapLoop, State.stapLoop]
      split
      · rfl
      · rw [← ih]; rfl

theorem State.blinded_fuStart (frag : Bytes) (s : State) : s.blinded.fuStart frag = (s.fuStart frag).blinded := by
  rw [State.fuStart_eq, State.fuStart_eq, apply_ite State.blinded]; rfl

theorem State.blinded_fuEndIfActive (s : State) : s.blinded.fuEndIfActive = s.fuEndIfActive.blinded := by
  rw [State.fuEndIfActive, State.fuEndIfActive, apply_ite State.blinded]; rfl

theorem State.blinded_fuCont (frag : Bytes) (s : State) :
    s.blinded.fuCont frag = ((s.fuCont frag).1, (s.fuCont frag).2.blinded) := by
  have hfield : s.blinded.frag = s.frag ∧ s.blinded.cfg = s.cfg := ⟨rfl, rfl⟩
  unfold State.fuCont
  rw [hfield.1, hfield.2]
  split_ifs <;> rfl

theorem fu_row_blinded {s t : State} {i : Instr} (hi : isFuRow i = true) (h : exec i s = .next t) :
    exec i s.blinded = .next t.blinded := by
  cases i <;> simp only [isFuRow, Bool.false_eq_true] at hi <;> cases h
  case fuATooShort => rfl
  case fuAStart f nri r ot frag => exact congrArg Host.Outcome.next (State.blinded_fuStart frag (s.loadFu _ _))
  case fuAStartEnd f nri r ot frag =>
    rw [← State.blinded_fuEndIfActive, ← State.blinded_fuStart]; rfl
  case fuAMiddle f nri r ot frag =>
    exact congrArg (fun c => Host.Outcome.next c.2) (State.blinded_fuCont frag (s.loadFu _ _))
  case fuAEnd f nri r ot frag =>
    have hcont := State.blinded_fuCont frag (s.loadFu (nalHeader f nri 28#5) (fuHeader false true r ot))
    rw [exec_fuAEnd hcont, State.blinded_fuEndIfActive, apply_ite State.blinded]

/-- No row of the classifier or of FU-A reads or writes what is blinded. -/
theorem payload_row_blinded {s t : State} {i : Instr} (hi : isPayloadRow i = true) (h : exec i s = .next t) :
    exec i s.blinded = .next t.blinded := by
  have hsingle (pl : Bytes) : s.blinded.singleNal pl = (s.singleNal pl).blinded := by
    rw [State.singleNal, State.blinded_abandonIfActive]; rfl
  have hunsupported : s.blinded.unsupported = s.unsupported.blinded := by
    rw [State.unsupported, State.blinded_abandonIfActive]; rfl
  cases i with
  | singleNalT0015 f nri ty body => cases h; exact congrArg Host.Outcome.next (hsingle _)
  | singleNalT1623 f nri ty body => cases h; exact congrArg Host.Outcome.next (hsingle _)
  | stapA f nri units =>
    cases h
    rw [← State.blinded_stapLoop]
    exact congrArg (fun u => Host.Outcome.next ((u.setOff 1).stapLoop units.length units)) s.blinded_abandonIfActive
  | unsupportedT25 f nri body => cases h; exact congrArg Host.Outcome.next hunsupported
  | unsupportedT2627 f nri ty body => cases h; exact congrArg Host.Outcome.next hunsupported
  | unsupportedT29 f nri body => cases h; exact congrArg Host.Outcome.next hunsupported
  | unsupportedT3031 f nri ty body => cases h; exact congrArg Host.Outcome.next hunsupported
  | emptyPayload => cases h; rfl
  | fuA f nri body =>
    cases body with
    | nil => cases h; rfl
    | cons fuh frag =>
      rw [← fuHeader_fields fuh, exec_fuA_cons] at h ⊢
      exact fu_row_blinded (fuRow_isFuRow ..) h
  | _ => exact fu_row_blinded hi h

theorem classify_blinded {pl : Bytes} {s t : State} (h : classify pl s = .next t) :
    classify pl s.blinded = .next t.blinded := by
  have hntype : s.blinded.setNtype pl = (s.setNtype pl).blinded := by cases pl <;> rfl
  rw [classify_eq] at h ⊢
  rw [hntype]
  exact payload_row_blinded (isPayloadRow_decode pl) h

/-! ## The accepted packet -/

/-- The tracker's writes are blinded. -/
theorem observe_acceptCounters_blinded {s u : State} (h : observe s.acceptCounters = .next u) :
    u.blinded = s.blinded.acceptCounters := by
  obtain ⟨ctr, cls, n, hu, hctr, -⟩ := observe_cases s.acceptCounters
  cases h.symm.trans hu
  obtain rfl | ⟨k, rfl⟩ | ⟨k, rfl⟩ | ⟨k, rfl⟩ := hctr
  all_goals rfl

/-- An accepted packet's blinded state is a function of the blinded state and the payload. -/
theorem classify_accepted_blinded {s u t : State} {pl : Bytes} (hu : observe s.acceptCounters = .next u)
    (ht : classify pl u = .next t) : classify pl s.blinded.acceptCounters = .next t.blinded := by
  rw [← observe_acceptCounters_blinded hu]
  exact classify_blinded ht

/-- What the tracker makes of its state and a sequence number. -/
theorem observe_tracker {s s' u u' : State} (htracker : s'.tracker = s.tracker) (hseq : s'.w.seq = s.w.seq)
    (hu : observe s = .next u) (hu' : observe s' = .next u') : u'.tracker = u.tracker := by
  simp only [State.tracker, Prod.mk.injEq] at htracker
  obtain ⟨hstate, hlost, hout, hdup, -⟩ := htracker
  have hdelta : s'.seqDelta = s.seqDelta := by rw [State.seqDelta, State.seqDelta, hstate, hseq]
  unfold observe at hu hu'
  rw [hdelta] at hu'
  cases hd : s.seqDelta with
  | none =>
    rw [hd] at hu hu'
    cases hu
    cases hu'
    simp [State.tracker, hseq, hlost, hout, hdup]
  | some delta =>
    rw [hd] at hu hu'
    unfold seqCases at hu hu'
    dsimp only at hu hu'
    split_ifs at hu hu'
    all_goals
      cases hu
      cases hu'
      simp [State.tracker, hstate, hseq, hlost, hout, hdup]

/-- The stages after the tracker leave its state alone. -/
theorem StageEffect.tracker_eq {evs : List (List Event)} {s t : State} (h : StageEffect evs s t) :
    t.tracker = s.tracker := by
  obtain ⟨-, -, hlost, hout, hdup, -⟩ := h.ctr
  obtain ⟨-, hclass, hlostN⟩ := h.res
  rw [State.tracker, State.tracker, h.seq, hlost, hout, hdup, hclass, hlostN]

theorem accept_stages {s : State} {pl : Bytes} (hpl : s.payload? = some pl) (p x : Bool) (cc : BitVec 4) :
    ∃ u t, observe s.acceptCounters = .next u ∧ classify pl u = .next t ∧ t.tracker = u.tracker ∧
      exec (.rtpAcceptV2 p x cc) s = .next t := by
  obtain ⟨ctr, cls, n, hu, -⟩ := observe_cases s.acceptCounters
  obtain ⟨t, ht, heffect⟩ := classify_stage pl (s.acceptCounters.tracked ctr cls n)
  exact ⟨_, t, hu, ht, heffect.tracker_eq, by simp only [exec, execRtpAcceptV2, hpl, hu, andThen_next, ht]⟩

/-- The accepting row on one payload keeps blocks alike. -/
theorem accept_alike {s s' : State} {pl : Bytes} (hblinded : s'.blinded = s.blinded) (hpl : s.payload? = some pl)
    (hpl' : s'.payload? = some pl) (p x p' x' : Bool) (cc cc' : BitVec 4) :
    ∃ t t', exec (.rtpAcceptV2 p x cc) s = .next t ∧ exec (.rtpAcceptV2 p' x' cc') s' = .next t' ∧
      t'.blinded = t.blinded ∧ (s'.w.seq = s.w.seq → s'.tracker = s.tracker → t'.tracker = t.tracker) := by
  obtain ⟨u, t, hu, ht, htracker, hrow⟩ := accept_stages hpl p x cc
  obtain ⟨u', t', hu', ht', htracker', hrow'⟩ := accept_stages hpl' p' x' cc'
  have hend := classify_accepted_blinded hu ht
  rw [← hblinded, classify_accepted_blinded hu' ht'] at hend
  refine ⟨t, t', hrow, hrow', Host.Outcome.next.inj hend, fun hseq hsame => ?_⟩
  rw [htracker, htracker']
  exact observe_tracker (s := s.acceptCounters) (s' := s'.acceptCounters) hsame hseq hu hu'

theorem State.blinded_setW {s s' : State} {w w' : Working} (hs : s'.blinded = s.blinded) (hw : w'.blinded = w.blinded) :
    ({ s' with w := w' } : State).blinded = ({ s with w := w } : State).blinded := by
  calc ({ s' with w := w' } : State).blinded
    _ = { s'.blinded with w := w'.blinded } := rfl
    _ = { s.blinded with w := w.blinded } := by rw [hs, hw]

/-! ## Headers alike -/

/-- Two datagrams of one length that agree in byte 0, the marker bit and everything behind the fixed header. -/
structure HeaderAlike (d d' : Bytes) : Prop where
  length : d'.length = d.length
  first : byteAt d' 0 = byteAt d 0
  marker : byteAt d' 1 / 128 = byteAt d 1 / 128
  rest : d'.drop 12 = d.drop 12

theorem HeaderAlike.byteAt_eq {d d' : Bytes} (h : HeaderAlike d d') {i : Nat} (hi : 12 ≤ i) :
    byteAt d' i = byteAt d i := by
  obtain ⟨j, rfl⟩ := Nat.exists_eq_add_of_le hi
  simp only [byteAt, List.getD_eq_getElem?_getD, ← List.getElem?_drop, h.rest]

theorem HeaderAlike.sub_eq {d d' : Bytes} (h : HeaderAlike d d') {i : Nat} (hi : 12 ≤ i) (j : Nat) :
    sub d' i j = sub d i j := by
  obtain ⟨k, rfl⟩ := Nat.exists_eq_add_of_le hi
  rw [sub, sub, ← List.drop_drop, ← List.drop_drop, h.rest]

/-- The status and the bounds come from byte 0 and the bytes behind the fixed header: where the padding count is a byte
of the fixed header there is no payload, so it is refused whatever it is. -/
theorem HeaderAlike.headerFormula_eq {d d' : Bytes} (h : HeaderAlike d d') (c : Config) :
    headerFormula c d' = headerFormula c d := by
  unfold headerFormula
  dsimp only
  rw [h.length, h.first, h.byteAt_eq (i := 12 + 4 * (byteAt d 0 % 16) + 2) (by omega),
    h.byteAt_eq (i := 12 + 4 * (byteAt d 0 % 16) + 3) (by omega)]
  obtain hlt | hle := Nat.lt_or_ge 12 d.length
  · rw [h.byteAt_eq (i := d.length - 1) (by omega)]
  obtain hp | hp := Nat.mod_two_eq_zero_or_one (byteAt d 0 / 32)
  · simp only [hp, Nat.zero_mul, Nat.zero_ne_one, false_and, if_false]
  · have hpad (hlen : Nat) (hhlen : 12 ≤ hlen) (pad : Nat) :
        byteAt d 0 / 32 % 2 = 1 ∧ (pad = 0 ∨ pad > d.length - hlen) := ⟨hp, by omega⟩
    rw [if_pos (hpad _ (by omega) _), if_pos (hpad _ (by omega) _)]

/-- A decoded header's blinded part is its version, its marker and the payload's bounds. -/
theorem headerDecode_blinded {c : Config} {d : Bytes} {w : Working} (h : headerDecode c d = .ok w) :
    w.blinded = { Working.idle with v := w.v, m := w.m, poff := w.poff, plen := w.plen } := by
  obtain ⟨h12, xlen, pad, hlen, -, -, rfl⟩ := headerDecode_ok h
  rfl

/-- The headers of two such datagrams decode alike, but for what is blinded. -/
theorem HeaderAlike.headerDecode {d d' : Bytes} (h : HeaderAlike d d') (hd : d.length ≤ 65536) (c : Config) :
    (∃ st, headerDecode c d = .error st ∧ headerDecode c d' = .error st) ∨
    ∃ w w', headerDecode c d = .ok w ∧ headerDecode c d' = .ok w' ∧ w'.blinded = w.blinded := by
  have hd' : d'.length ≤ 65536 := h.length ▸ hd
  have hmap := (headerDecodeMatchesFormula c d' hd').trans
    ((h.headerFormula_eq c).trans (headerDecodeMatchesFormula c d hd).symm)
  cases hw : Machine.headerDecode c d with
  | error st =>
    cases hw' : Machine.headerDecode c d' with
    | error st' => rw [hw, hw'] at hmap; cases hmap; exact .inl ⟨st, rfl, rfl⟩
    | ok w' => rw [hw, hw'] at hmap; cases hmap
  | ok w =>
    cases hw' : Machine.headerDecode c d' with
    | error st' => rw [hw, hw'] at hmap; cases hmap
    | ok w' =>
      rw [hw, hw'] at hmap
      simp only [Except.map, Except.ok.injEq, Prod.mk.injEq] at hmap
      obtain ⟨hv, -, -, -, hm, -⟩ := headerFieldsUnpack c d w hd hw
      obtain ⟨hv', -, -, -, hm', -⟩ := headerFieldsUnpack c d' w' hd' hw'
      refine .inr ⟨w, w', rfl, rfl, ?_⟩
      rw [headerDecode_blinded hw, headerDecode_blinded hw', BitVec.eq_of_toNat_eq hmap.1, BitVec.eq_of_toNat_eq hmap.2,
        BitVec.eq_of_toNat_eq (hv'.trans ((congrArg (· / 64) h.first).trans hv.symm)), hm, hm', h.marker]

/-- And they have one payload. -/
theorem HeaderAlike.payload?_eq {d d' : Bytes} (h : HeaderAlike d d') (hd : d.length ≤ 65536) {s s' : State}
    (hdgram : s.dgram = d) (hdgram' : s'.dgram = d') {c c' : Config} {w w' : Working}
    (hw : Machine.headerDecode c d = .ok w) (hw' : Machine.headerDecode c' d' = .ok w')
    (hww : w'.blinded = w.blinded) :
    ∃ pl, State.payload? { s with w := w } = some pl ∧ State.payload? { s' with w := w' } = some pl := by
  have hinside := (headerDecode_bounds hw).2
  have hinside' := (headerDecode_bounds hw').2
  have hpoff : w'.poff = w.poff := (congrArg Working.poff hww :)
  have hplen : w'.plen = w.plen := (congrArg Working.plen hww :)
  subst hdgram hdgram'
  refine ⟨_, if_pos hinside, (if_pos hinside').trans ?_⟩
  dsimp only
  rw [hpoff, hplen, h.sub_eq (headerDecode_exact hd hw).2]

/-! ## The pipeline -/

/-- The pipeline over two such datagrams, from blocks that look alike, ends in blocks that look alike; where the two
have one sequence number, also in the tracker. -/
theorem runDatagram_alike {s s' : State} {d d' : Bytes} (hd : d.length ≤ 65536) (h : HeaderAlike d d')
    (hdgram : s.dgram = d) (hdgram' : s'.dgram = d') (hblinded : s'.blinded = s.blinded) :
    ∃ t t', runDatagram d s = .next t ∧ runDatagram d' s' = .next t' ∧ t'.blinded = t.blinded ∧
      ((∀ w w', headerDecode s.cfg d = .ok w → headerDecode s.cfg d' = .ok w' → w'.seq = w.seq) →
        s'.tracker = s.tracker → t'.tracker = t.tracker) := by
  have hstopped : s'.stopped = s.stopped := (congrArg State.stopped hblinded :)
  have hcfg : s'.cfg = s.cfg := (congrArg State.cfg hblinded :)
  cases hs : s.stopped with
  | true =>
    exact ⟨_, _, runDatagram_stopped s d hs, runDatagram_stopped s' d' (hstopped.trans hs),
      (congrArg (State.setStatus .stopped) hblinded :), fun _ => id⟩
  | false =>
    have hs' := hstopped.trans hs
    obtain ⟨st, hw, hw'⟩ | ⟨w, w', hw, hw', hww⟩ := h.headerDecode hd s.cfg
    all_goals rw [← hcfg] at hw'
    · exact ⟨_, _, runDatagram_error s d hs hw, runDatagram_error s' d' hs' hw',
        (congrArg (State.setStatus st) hblinded :), fun _ => id⟩
    · have hwblinded := State.blinded_setW hblinded hww
      have hv : w'.v = w.v := (congrArg Working.v hww :)
      by_cases hv2 : w.v = 2#2
      · obtain ⟨pl, hpl, hpl'⟩ := h.payload?_eq hd hdgram hdgram' hw hw' hww
        obtain ⟨t, t', ht, ht', hend, htracker⟩ := accept_alike hwblinded hpl hpl' w.p w.x w'.p w'.x w.cc w'.cc
        exact ⟨t, t', (runDatagram_accept s d hs hw hv2).trans ht,
          (runDatagram_accept s' d' hs' hw' (hv.trans hv2)).trans ht', hend,
          fun hseq hsame => htracker (hseq w w' hw (hcfg ▸ hw')) hsame⟩
      · exact ⟨_, _, runDatagram_drop s d hs hw hv2, runDatagram_drop s' d' hs' hw' (hv ▸ hv2),
          (congrArg (State.setStatus .versionDropped) hwblinded :), fun _ => id⟩

/-! ## The whole datagram -/

theorem HeaderAlike.refl (d : Bytes) : HeaderAlike d d := ⟨rfl, rfl, rfl, rfl⟩

theorem headerAlike_withSeq (q1 q0 : Byte) (d : Bytes) : HeaderAlike d (withSeq q1 q0 d) := by
  unfold withSeq
  split
  · exact ⟨rfl, rfl, rfl, rfl⟩
  · exact .refl _

theorem headerAlike_withUnused (pt : BitVec 7) (t3 t2 t1 t0 r3 r2 r1 r0 : Byte) (d : Bytes) :
    HeaderAlike d (withUnused pt t3 t2 t1 t0 r3 r2 r1 r0 d) := by
  unfold withUnused
  split
  next b0 b1 _ _ _ _ _ _ _ _ _ _ rest =>
    refine ⟨rfl, rfl, ?_, rfl⟩
    have hmarker : (BitVec.ofBool (b1.getLsbD 7) ++ pt).toNat / 128 = b1.toNat / 128 := by
      have hpt := pt.isLt
      have hb1 := b1.isLt
      rw [toNat_append_eq_add, BitVec.toNat_ofBool, getLsbD_eq_decide, decide_toNat_mod_two]
      omega
    exact hmarker
  · exact .refl _

/-- What two such datagrams leave of blocks that agree in all but what the tracker keeps. -/
theorem dgram_alike {s s' : State} {d d' : Bytes} (hd : d.length ≤ 65536) (h : HeaderAlike d d')
    (hview : s'.view = s.view) :
    ∃ t t' : State, exec (.dgram d) s = .next t.resultOut ∧ exec (.dgram d') s' = .next t'.resultOut ∧
      t'.blinded = t.blinded ∧ t.results = s.results ∧ t'.results = s'.results ∧
      ((∀ w w', headerDecode s.cfg d = .ok w → headerDecode s.cfg d' = .ok w' → w'.seq = w.seq) →
        (s'.openDgram d').tracker = (s.openDgram d).tracker → t'.tracker = t.tracker) := by
  obtain ⟨t, t', ht, ht', hend, htracker⟩ :=
    runDatagram_alike (s := s.openDgram d) (s' := s'.openDgram d') hd h rfl rfl hview
  have hexec : exec (.dgram d) s = .next t.resultOut := by
    simp only [exec, execDgram, maxDgramBytes, if_pos hd, ht, andThen_next]
  have hexec' : exec (.dgram d') s' = .next t'.resultOut := by
    simp only [exec, execDgram, maxDgramBytes, h.length, if_pos hd, ht', andThen_next]
  have hresults {s t : State} {d : Bytes} (h : exec (.dgram d) s = .next t.resultOut) : t.results = s.results := by
    obtain ⟨r, -, hr, -⟩ := (dgram_effect h).record
    exact (List.append_inj' hr rfl).1
  exact ⟨t, t', hexec, hexec', hend, hresults hexec, hresults hexec', htracker⟩

/-- The state after a datagram, put together from the blinded state at its end and what is blinded. -/
theorem State.resultOut_eq_blinded (t : State) : t.resultOut = { t.blinded with
    inputs := t.inputs
    seq := t.tracker.1
    ctr := { t.blinded.ctr with
      lost := t.tracker.2.1, outOfOrder := t.tracker.2.2.1, duplicate := t.tracker.2.2.2.1 }
    results := t.results ++ [{ t.blinded.res with seqClass := t.tracker.2.2.2.2.1, lostN := t.tracker.2.2.2.2.2 }]
    answers := t.answers
    w := Working.idle
    res := ResultRecord.start } := rfl

theorem withUnused_seq {c : Config} {d : Bytes} {w w' : Working} {pt : BitVec 7} {t3 t2 t1 t0 r3 r2 r1 r0 : Byte}
    (hw : headerDecode c d = .ok w) (hw' : headerDecode c (withUnused pt t3 t2 t1 t0 r3 r2 r1 r0 d) = .ok w') :
    w'.seq = w.seq := by
  obtain ⟨h12, -, -, -, -, -, rfl⟩ := headerDecode_ok hw
  obtain ⟨h12', -, -, -, -, -, rfl⟩ := headerDecode_ok hw'
  obtain ⟨-, -, -, -, -, -, hseq, -⟩ := unpackFixed_fields h12
  obtain ⟨-, -, -, -, -, -, hseq', -⟩ := unpackFixed_fields h12'
  have hbytes (i : Nat) (hi : i = 2 ∨ i = 3) : byteAt (withUnused pt t3 t2 t1 t0 r3 r2 r1 r0 d) i = byteAt d i := by
    unfold withUnused
    obtain rfl | rfl := hi <;> split <;> rfl
  rw [hbytes 2 (.inl rfl), hbytes 3 (.inr rfl), ← hseq] at hseq'
  exact BitVec.eq_of_toNat_eq hseq'

/-- Settles O19: the datagrams are alike and have one sequence number, so the pipeline ends in one blinded state and one
state of the tracker, and the rest is the host's side, which no datagram touches. -/
theorem unusedHeaderFieldsIgnored : Obligations.UnusedHeaderFieldsIgnored := by
  intro s d pt t3 t2 t1 t0 r3 r2 r1 r0
  have halike := headerAlike_withUnused pt t3 t2 t1 t0 r3 r2 r1 r0 d
  by_cases hd : d.length ≤ 65536
  · obtain ⟨t, t', ht, ht', hend, hresults, hresults', htracker⟩ := dgram_alike (s := s) (s' := s) hd halike rfl
    have hkept := dgram_effect ht
    have hkept' := dgram_effect ht'
    have hinputs : t'.inputs = t.inputs := hkept'.inputs.trans hkept.inputs.symm
    have hanswers : t'.answers = t.answers := hkept'.answers.trans hkept.answers.symm
    rw [ht, ht', t'.resultOut_eq_blinded, hend, htracker (fun w w' => withUnused_seq) rfl, hinputs, hanswers, hresults',
      ← hresults, ← t.resultOut_eq_blinded]
  · have hrefused := reservedKindIsRefused.2.1
    rw [hrefused d s (Nat.lt_of_not_le hd), hrefused _ s (by rw [halike.length]; omega)]

theorem agreeButSequence_iff {s s' : State} :
    s'.cfg = s.cfg ∧ sequenceBlind s' = sequenceBlind s ↔ s'.view = s.view ∧
      s'.results.map (fun r => (r.status, r.events, r.emitted)) =
        s.results.map (fun r => (r.status, r.events, r.emitted)) := by
  simp only [sequenceBlind, State.view, State.blinded, State.openDgram, Prod.mk.injEq, List.cons.injEq, State.mk.injEq,
    Counters.mk.injEq, and_true, true_and]
  tauto

/-- A datagram keeps the relation of two blocks that differ in what the tracker keeps. -/
theorem dgram_keeps_blind {s s' t : State} {d d' : Bytes} (h : HeaderAlike d d') (hcfg : s'.cfg = s.cfg)
    (hblind : sequenceBlind s' = sequenceBlind s) (ht : exec (.dgram d) s = .next t) :
    ∃ t', exec (.dgram d') s' = .next t' ∧ t'.cfg = t.cfg ∧ sequenceBlind t' = sequenceBlind t := by
  have hd : d.length ≤ 65536 := by
    by_contra hlong
    rw [reservedKindIsRefused.2.1 d s (Nat.lt_of_not_le hlong)] at ht
    cases ht
  obtain ⟨hview, hresults⟩ := agreeButSequence_iff.mp ⟨hcfg, hblind⟩
  obtain ⟨u, u', hu, hu', hend, hu_results, hu_results', -⟩ := dgram_alike hd h hview
  cases ht.symm.trans hu
  refine ⟨u'.resultOut, hu', agreeButSequence_iff.mpr ⟨(congrArg State.view hend :), ?_⟩⟩
  have hrecord : (u'.res.status, u'.res.events, u'.res.emitted) = (u.res.status, u.res.events, u.res.emitted) :=
    (congrArg (fun b : State => (b.res.status, b.res.events, b.res.emitted)) hend :)
  rw [State.resultOut_results, State.resultOut_results, List.map_append, List.map_append, hu_results, hu_results',
    hresults, List.map_singleton, List.map_singleton, hrecord]

/-- Settles O11: a datagram with another sequence number is alike. -/
theorem sequenceNeverReachesOutput : Obligations.SequenceNeverReachesOutput :=
  fun _ _ _ d q1 q0 hcfg hblind ht => dgram_keeps_blind (headerAlike_withSeq q1 q0 d) hcfg hblind ht

end Sys2Proof.Machine
end

section
/-!
Two blocks that differ in what the tracker keeps and in the sequence numbers to come take the same steps
(`spec/45_sequence.md` R177, decision D39), whatever the input.
-/
namespace Sys2Proof.Machine

open Sys2Proof.Claims

/-- What is to be shown of one step of the two blocks. -/
structure StepsAlike (s s' : State) (o o' : Result) : Prop where
  next : ∀ t, o = .next t → ∃ t', o' = .next t' ∧ AgreeButSequence t t' ∧
    (s'.answers = s.answers → IsTrackerRead s ∨ t'.answers = t.answers)
  refused : ∀ r, o = .refused r → o' = .refused r

section
variable {s s' : State}

theorem StepsAlike.of_refused (r : Refusal) : StepsAlike s s' (.refused r) (.refused r) :=
  ⟨fun _ h => (by cases h), fun _ => id⟩

theorem StepsAlike.of_next {t t' : State} (h : AgreeButSequence t t')
    (hanswers : s'.answers = s.answers → IsTrackerRead s ∨ t'.answers = t.answers) :
    StepsAlike s s' (.next t) (.next t') :=
  ⟨fun _ ht => ⟨t', rfl, Host.Outcome.next.inj ht ▸ h, Host.Outcome.next.inj ht ▸ hanswers⟩, fun _ h => by cases h⟩

/-- Two blocks that agree still do when one input is taken off each port. -/
theorem agreeButSequence_setInputs (h : AgreeButSequence s s') {rest rest' : List HostInput}
    (hrest : List.Forall₂ SameButSequence rest rest') :
    AgreeButSequence { s with inputs := rest } { s' with inputs := rest' } := ⟨h.cfg, h.blind, hrest⟩

/-! ## Datagrams -/

theorem StepsAlike.dgram {d d' : Bytes} {rest rest' : List HostInput} (h : AgreeButSequence s s')
    (hrest : List.Forall₂ SameButSequence rest rest') (halike : HeaderAlike d d') (hd : d.length ≤ maxDgramBytes) :
    StepsAlike s s' (exec (.dgram d) { s with inputs := rest }) (exec (.dgram d') { s' with inputs := rest' }) := by
  obtain ⟨t, ht⟩ := dgram_completes { s with inputs := rest } hd
  obtain ⟨t', ht', hcfg, hblind⟩ := dgram_keeps_blind (s := { s with inputs := rest })
    (s' := { s' with inputs := rest' }) halike h.cfg h.blind ht
  have heffect := dgram_effect ht
  have heffect' := dgram_effect ht'
  rw [ht, ht']
  refine .of_next ⟨hcfg, hblind, ?_⟩ fun hanswers => .inr ?_
  · rw [heffect.inputs, heffect'.inputs]; exact hrest
  · rw [heffect.answers, heffect'.answers]; exact hanswers

/-- A datagram transaction is refused for its length alone. -/
theorem decodeTxn_dgramTxn (d : Bytes) : decodeTxn (dgramTxn d) =
    if (BitVec.ofNat 17 d.length).toNat > maxDgramBytes then .error .datagramTooLong
    else if d.length ≠ (BitVec.ofNat 17 d.length).toNat then .error .dataMismatch
    else .ok (.dgram d) := by
  simp only [decodeTxn, dgramTxn, commandWord_kind, commandWord_reserved, commandWord_off]
  rw [if_neg (by decide), if_neg (by decide), if_pos trivial, if_neg (by decide)]

/-! ## Registers -/

/-- Away from the four registers that show the tracker a register shows nothing that is blinded. -/
theorem regValue_view (s : State) {off : BitVec 8} (hoff : off ∉ [0x08#8, 0x58#8, 0x60#8, 0x68#8]) :
    s.view.regValue off = s.regValue off := by
  have hne (n : BitVec 8) (hn : n ∈ [0x08#8, 0x58#8, 0x60#8, 0x68#8]) : off.toNat ≠ n.toNat := fun h =>
    hoff (BitVec.eq_of_toNat_eq h ▸ hn)
  unfold State.regValue
  split
  case h_1 h => exact absurd h (hne 0x08#8 (by decide))
  case h_8 h => exact absurd h (hne 0x58#8 (by decide))
  case h_9 h => exact absurd h (hne 0x60#8 (by decide))
  case h_10 h => exact absurd h (hne 0x68#8 (by decide))
  all_goals rfl

theorem view_writeCtrl (v : Reg64) (s : State) : (s.writeCtrl v).view = s.view.writeCtrl v := by
  unfold State.writeCtrl
  cases v.getLsbD 0 <;> cases v.getLsbD 1 <;> cases v.getLsbD 2 <;> rfl

/-- A register write reads nothing that is blinded, and can only clear it. -/
theorem view_regWrite (off : BitVec 8) (v : Reg64) (s : State) : (s.regWrite off v).view = s.view.regWrite off v := by
  unfold State.regWrite
  split_ifs
  · exact view_writeCtrl v s
  · rfl
  · simp only [State.replayPush, apply_ite State.view]; rfl
  · rfl

theorem agreeButSequence_regWrite (h : AgreeButSequence s s') (off : BitVec 8) (v : Reg64) :
    AgreeButSequence (s.regWrite off v) (s'.regWrite off v) := by
  obtain ⟨-, hinputs, -, hresults, -⟩ := regWrite_keeps off v s
  obtain ⟨-, hinputs', -, hresults', -⟩ := regWrite_keeps off v s'
  obtain ⟨hview, hblind⟩ := agreeButSequence_iff.mp ⟨h.cfg, h.blind⟩
  have hview : (s'.regWrite off v).view = (s.regWrite off v).view := by rw [view_regWrite, view_regWrite, hview]
  obtain ⟨hcfg, hblind⟩ := agreeButSequence_iff.mpr ⟨hview, by rw [hresults, hresults', hblind]⟩
  exact ⟨hcfg, hblind, by rw [hinputs, hinputs']; exact h.inputs⟩

/-! ## The step -/

/-- One transaction for both. -/
theorem StepsAlike.txn (h : AgreeButSequence s s') {x : HostTxn} {rest rest' : List HostInput}
    (hinputs : s.inputs = .txn x :: rest) (hinputs' : s'.inputs = .txn x :: rest')
    (hrest : List.Forall₂ SameButSequence rest rest') : StepsAlike s s' (step s) (step s') := by
  cases hx : decodeTxn x with
  | error e =>
    rw [step_of_undecodable hinputs hx, step_of_undecodable hinputs' hx]
    exact .of_refused _
  | ok i =>
    rw [step_of_decoded hinputs hx, step_of_decoded hinputs' hx]
    obtain ⟨low, rfl⟩ | ⟨d, rfl, hd, rfl⟩ | ⟨off, rfl, hoff, rfl⟩ | ⟨off, v, rfl, hoff, rfl⟩ := decodeTxn_ok hx
    · exact .of_refused _
    · exact .dgram h hrest (.refl d) hd
    · have hoff := (offsetOk_iff off).mp hoff
      have hview := (agreeButSequence_iff.mp ⟨h.cfg, h.blind⟩).1
      rw [registerReadAnswersOnly off _ hoff, registerReadAnswersOnly off _ hoff]
      refine .of_next ⟨h.cfg, h.blind, hrest⟩ fun hanswers => ?_
      by_cases htracker : off ∈ [0x08#8, 0x58#8, 0x60#8, 0x68#8]
      · exact .inl ⟨off, rest, hinputs, htracker⟩
      · have hvalue : s'.regValue off = s.regValue off := by
          rw [← regValue_view s' htracker, hview, regValue_view s htracker]
        exact .inr (congrArg₂ (fun a v => a ++ [v]) hanswers hvalue)
    · rw [exec_decodeWrite off v _ hoff, exec_decodeWrite off v _ hoff]
      refine .of_next (agreeButSequence_regWrite (agreeButSequence_setInputs h hrest) off v) fun hanswers => .inr ?_
      obtain ⟨-, -, -, -, hkept⟩ := regWrite_keeps off v { s with inputs := rest }
      obtain ⟨-, -, -, -, hkept'⟩ := regWrite_keeps off v { s' with inputs := rest' }
      rw [hkept, hkept']; exact hanswers

/-- A datagram for each, with a sequence number of its own. -/
theorem StepsAlike.datagrams (h : AgreeButSequence s s') {d d' : Bytes} {rest rest' : List HostInput}
    (hinputs : s.inputs = .txn (dgramTxn d) :: rest) (hinputs' : s'.inputs = .txn (dgramTxn d') :: rest')
    (hrest : List.Forall₂ SameButSequence rest rest') (halike : HeaderAlike d d') :
    StepsAlike s s' (step s) (step s') := by
  have hx := decodeTxn_dgramTxn d
  have hx' := decodeTxn_dgramTxn d'
  rw [halike.length] at hx'
  split_ifs at hx hx' with hlong hlen
  · rw [step_of_undecodable hinputs hx, step_of_undecodable hinputs' hx']
    exact .of_refused _
  · rw [step_of_undecodable hinputs hx, step_of_undecodable hinputs' hx']
    exact .of_refused _
  · rw [step_of_decoded hinputs hx, step_of_decoded hinputs' hx']
    exact .dgram h hrest halike (by omega)

end

/-- Settles O53: input by input; a datagram meets one that is alike, every other input its equal. -/
theorem sequenceNumbersSteerNoStep : Obligations.SequenceNumbersSteerNoStep := by
  intro s s' h
  have halike : StepsAlike s s' (step s) (step s') := by
    have hpair := h.inputs
    cases hinputs : s.inputs with
    | nil =>
      rw [hinputs, List.forall₂_nil_left_iff] at hpair
      rw [step_of_idle hinputs, step_of_idle hpair]
      exact .of_next h .inr
    | cons a rest =>
      rw [hinputs, List.forall₂_cons_left_iff] at hpair
      obtain ⟨b, rest', hab, hrest, hinputs'⟩ := hpair
      obtain rfl | ⟨d, q1, q0, rfl, rfl⟩ := hab
      · cases b with
        | reset =>
          rw [step_of_reset hinputs, step_of_reset hinputs']
          exact .of_next ⟨h.cfg, rfl, hrest⟩ fun _ => .inr rfl
        | txn x => exact .txn h hinputs hinputs' hrest
      · exact .datagrams h hinputs hinputs' hrest (headerAlike_withSeq q1 q0 d)
  exact ⟨halike.next, halike.refused⟩

end Sys2Proof.Machine
end
